-- ==== Sys2Proof/Word.lean ====
section
/-! DEFINITION. The word types of the core: bytes, 16-bit words, register indices (00_scope.md R8, R10). -/

namespace Sys2Proof

/-- A byte: the contents of a memory cell, of a register V0 to VF and of a timer. -/
abbrev Byte := BitVec 8

/-- A 16-bit word: an opcode, the index register, the program counter, a stack slot. -/
abbrev Word := BitVec 16

/-- A register index, the value of an `x` or `y` field (00_scope.md R15). -/
abbrev RegIdx := Fin 16

/-- The flag register VF (10_state.md R32). -/
abbrev vf : RegIdx := 15

end Sys2Proof
end

