-- ==== Sys2Proof/Syntax.lean ====
section
/-! DEFINITION. The instruction set: one constructor per row of spec/opcode_table.json (30_encoding.md R105). -/

namespace Sys2Proof

/-- The 34 instructions of 30_encoding.md R105, in its order. `x` and `y` are register indices, `kk` a byte
immediate, `nnn` a 12-bit address, `n` a number of sprite rows (R101). -/
inductive Instr where
  | cls
  | ret
  | jp (nnn : BitVec 12)
  | call (nnn : BitVec 12)
  | sevxb (x : RegIdx) (kk : Byte)
  | snevxb (x : RegIdx) (kk : Byte)
  | sevxy (x y : RegIdx)
  | ldvxb (x : RegIdx) (kk : Byte)
  | addvxb (x : RegIdx) (kk : Byte)
  | ldvxy (x y : RegIdx)
  | or (x y : RegIdx)
  | and (x y : RegIdx)
  | xor (x y : RegIdx)
  | addvxy (x y : RegIdx)
  | subvxy (x y : RegIdx)
  | shr (x y : RegIdx)
  | subn (x y : RegIdx)
  | shl (x y : RegIdx)
  | snevxy (x y : RegIdx)
  | ldi (nnn : BitVec 12)
  | jr (nnn : BitVec 12)
  | rnd (x : RegIdx) (kk : Byte)
  | drw (x y : RegIdx) (n : Nat)
  | skp (x : RegIdx)
  | sknp (x : RegIdx)
  | ldvxdt (x : RegIdx)
  | ldvxk (x : RegIdx)
  | lddtvx (x : RegIdx)
  | ldstvx (x : RegIdx)
  | addivx (x : RegIdx)
  | ldfvx (x : RegIdx)
  | ldbvx (x : RegIdx)
  | ldivx (x : RegIdx)
  | ldvxi (x : RegIdx)
  deriving DecidableEq, Repr

end Sys2Proof
end

