-- ==== Sys2Proof/WellFormed.lean ====
section
/-! DEFINITION. Which terms of `Instr` are instructions: the operands fit their fields (30_encoding.md R101).
Register indices, byte immediates and addresses fit by their types; the number of sprite rows is a count,
a `Nat`, and must be 0 to 15. -/

namespace Sys2Proof

/-- The operands fit the fields of the instruction's format (30_encoding.md R101, R103). -/
def Instr.wellFormed : Instr → Bool
  | .drw _ _ n => decide (n < 16)
  | .cls | .ret | .jp _ | .call _ | .ldi _ | .jr _ => true
  | .sevxb _ _ | .snevxb _ _ | .ldvxb _ _ | .addvxb _ _ | .rnd _ _ => true
  | .sevxy _ _ | .snevxy _ _ | .ldvxy _ _ | .or _ _ | .and _ _ | .xor _ _ => true
  | .addvxy _ _ | .subvxy _ _ | .shr _ _ | .subn _ _ | .shl _ _ => true
  | .skp _ | .sknp _ | .ldvxdt _ | .ldvxk _ | .lddtvx _ | .ldstvx _ => true
  | .addivx _ | .ldfvx _ | .ldbvx _ | .ldivx _ | .ldvxi _ => true

end Sys2Proof
end

