-- ==== Sys2Proof/Decode.lean ====
section
/-! DEFINITION. The decoder, total on every word and every byte string (30_encoding.md R104), the opcode map
(R105), and the encoder, written from the formats (R102) and the map. -/

namespace Sys2Proof

/-- Why a decoder gives no instruction. -/
inductive DecodeReject where
  /-- No row of 30_encoding.md R105 matches the word: the spec's DecodeError(op) (R107). -/
  | decodeError (op : Word)
  /-- Fewer than two bytes are left: no word to decode (R100). -/
  | truncated
  deriving DecidableEq, Repr

/-! The fields of an opcode (30_encoding.md R101). -/

/-- `t = op[15:12]`, the family. -/
def fieldT (op : Word) : BitVec 4 := op.extractLsb' 12 4
/-- `x = op[11:8]`. -/
def fieldX (op : Word) : RegIdx := (op.extractLsb' 8 4).toFin
/-- `y = op[7:4]`. -/
def fieldY (op : Word) : RegIdx := (op.extractLsb' 4 4).toFin
/-- `n = op[3:0]`. -/
def fieldN (op : Word) : BitVec 4 := op.extractLsb' 0 4
/-- `kk = op[7:0]`. -/
def fieldKk (op : Word) : Byte := op.extractLsb' 0 8
/-- `nnn = op[11:0]`. -/
def fieldNnn (op : Word) : BitVec 12 := op.extractLsb' 0 12

/-- Family 0: only the two exact words (R104). -/
def decodeFamily0 (op : Word) : Except DecodeReject Instr :=
  if op = 0x00E0 then .ok .cls
  else if op = 0x00EE then .ok .ret
  else .error (.decodeError op)

/-- Family 8: sub-dispatch on the low nybble (R104). -/
def decodeFamily8 (op : Word) : Except DecodeReject Instr :=
  match fieldN op with
  | 0x0 => .ok (.ldvxy (fieldX op) (fieldY op))
  | 0x1 => .ok (.or (fieldX op) (fieldY op))
  | 0x2 => .ok (.and (fieldX op) (fieldY op))
  | 0x3 => .ok (.xor (fieldX op) (fieldY op))
  | 0x4 => .ok (.addvxy (fieldX op) (fieldY op))
  | 0x5 => .ok (.subvxy (fieldX op) (fieldY op))
  | 0x6 => .ok (.shr (fieldX op) (fieldY op))
  | 0x7 => .ok (.subn (fieldX op) (fieldY op))
  | 0xE => .ok (.shl (fieldX op) (fieldY op))
  | _ => .error (.decodeError op)

/-- Family E: sub-dispatch on the low byte (R104). -/
def decodeFamilyE (op : Word) : Except DecodeReject Instr :=
  match fieldKk op with
  | 0x9E => .ok (.skp (fieldX op))
  | 0xA1 => .ok (.sknp (fieldX op))
  | _ => .error (.decodeError op)

/-- Family F: sub-dispatch on the low byte (R104). -/
def decodeFamilyF (op : Word) : Except DecodeReject Instr :=
  match fieldKk op with
  | 0x07 => .ok (.ldvxdt (fieldX op))
  | 0x0A => .ok (.ldvxk (fieldX op))
  | 0x15 => .ok (.lddtvx (fieldX op))
  | 0x18 => .ok (.ldstvx (fieldX op))
  | 0x1E => .ok (.addivx (fieldX op))
  | 0x29 => .ok (.ldfvx (fieldX op))
  | 0x33 => .ok (.ldbvx (fieldX op))
  | 0x55 => .ok (.ldivx (fieldX op))
  | 0x65 => .ok (.ldvxi (fieldX op))
  | _ => .error (.decodeError op)

/-- The decoder of 30_encoding.md R104: dispatch on the top nybble, total over all words. -/
def decode (op : Word) : Except DecodeReject Instr :=
  match fieldT op with
  | 0x0 => decodeFamily0 op
  | 0x1 => .ok (.jp (fieldNnn op))
  | 0x2 => .ok (.call (fieldNnn op))
  | 0x3 => .ok (.sevxb (fieldX op) (fieldKk op))
  | 0x4 => .ok (.snevxb (fieldX op) (fieldKk op))
  | 0x5 => if fieldN op = 0 then .ok (.sevxy (fieldX op) (fieldY op)) else .error (.decodeError op)
  | 0x6 => .ok (.ldvxb (fieldX op) (fieldKk op))
  | 0x7 => .ok (.addvxb (fieldX op) (fieldKk op))
  | 0x8 => decodeFamily8 op
  | 0x9 => if fieldN op = 0 then .ok (.snevxy (fieldX op) (fieldY op)) else .error (.decodeError op)
  | 0xA => .ok (.ldi (fieldNnn op))
  | 0xB => .ok (.jr (fieldNnn op))
  | 0xC => .ok (.rnd (fieldX op) (fieldKk op))
  | 0xD => .ok (.drw (fieldX op) (fieldY op) (fieldN op).toNat)
  | 0xE => decodeFamilyE op
  | 0xF => decodeFamilyF op
  | _ => .error (.decodeError op)

/-- The big-endian word of two bytes (20_memory.md R74): the first byte is bits 15 to 8. -/
def wordOfBytes (hi lo : Byte) : Word := (hi ++ lo : BitVec 16)

/-- The byte at the lower address of a word in memory. -/
def highByte (op : Word) : Byte := op.extractLsb' 8 8
/-- The byte at the higher address of a word in memory. -/
def lowByte (op : Word) : Byte := op.extractLsb' 0 8

/-- The decoder on a byte string: one instruction and the bytes after it. -/
def decodeBytes : List Byte → Except DecodeReject (Instr × List Byte)
  | hi :: lo :: rest =>
    match decode (wordOfBytes hi lo) with
    | .ok ins => .ok (ins, rest)
    | .error e => .error e
  | _ => .error .truncated

/-- The instruction the decoder reads from an instruction whose table-numbered bits are `w`: its one word,
laid out as two bytes, high byte first. -/
def decodeTableWord (nbits w : Nat) : Option Instr :=
  let op := BitVec.ofNat 16 (w % 2 ^ nbits)
  match decodeBytes [highByte op, lowByte op] with
  | .ok (ins, _) => some ins
  | .error _ => none

/-! The opcode map. -/

/-- One row of 30_encoding.md R105: a word selects the row when `word AND mask = bits`. -/
structure Row where
  mnemonic : String
  bits     : Word
  mask     : Word
  deriving DecidableEq, Repr

/-- The opcode map of 30_encoding.md R105, rows 1 to 9. -/
def opcodeTableLow : List Row := [
  ⟨"CLS",    0x00E0, 0xFFFF⟩,
  ⟨"RET",    0x00EE, 0xFFFF⟩,
  ⟨"JP",     0x1000, 0xF000⟩,
  ⟨"CALL",   0x2000, 0xF000⟩,
  ⟨"SEVXB",  0x3000, 0xF000⟩,
  ⟨"SNEVXB", 0x4000, 0xF000⟩,
  ⟨"SEVXY",  0x5000, 0xF00F⟩,
  ⟨"LDVXB",  0x6000, 0xF000⟩,
  ⟨"ADDVXB", 0x7000, 0xF000⟩]

/-- Rows 10 to 18, family 8. -/
def opcodeTable8 : List Row := [
  ⟨"LDVXY",  0x8000, 0xF00F⟩,
  ⟨"OR",     0x8001, 0xF00F⟩,
  ⟨"AND",    0x8002, 0xF00F⟩,
  ⟨"XOR",    0x8003, 0xF00F⟩,
  ⟨"ADDVXY", 0x8004, 0xF00F⟩,
  ⟨"SUBVXY", 0x8005, 0xF00F⟩,
  ⟨"SHR",    0x8006, 0xF00F⟩,
  ⟨"SUBN",   0x8007, 0xF00F⟩,
  ⟨"SHL",    0x800E, 0xF00F⟩]

/-- Rows 19 to 34. -/
def opcodeTableHigh : List Row := [
  ⟨"SNEVXY", 0x9000, 0xF00F⟩,
  ⟨"LDI",    0xA000, 0xF000⟩,
  ⟨"JR",     0xB000, 0xF000⟩,
  ⟨"RND",    0xC000, 0xF000⟩,
  ⟨"DRW",    0xD000, 0xF000⟩,
  ⟨"SKP",    0xE09E, 0xF0FF⟩,
  ⟨"SKNP",   0xE0A1, 0xF0FF⟩,
  ⟨"LDVXDT", 0xF007, 0xF0FF⟩,
  ⟨"LDVXK",  0xF00A, 0xF0FF⟩,
  ⟨"LDDTVX", 0xF015, 0xF0FF⟩,
  ⟨"LDSTVX", 0xF018, 0xF0FF⟩,
  ⟨"ADDIVX", 0xF01E, 0xF0FF⟩,
  ⟨"LDFVX",  0xF029, 0xF0FF⟩,
  ⟨"LDBVX",  0xF033, 0xF0FF⟩,
  ⟨"LDIVX",  0xF055, 0xF0FF⟩,
  ⟨"LDVXI",  0xF065, 0xF0FF⟩]

/-- The opcode map of 30_encoding.md R105, 34 rows in its order. -/
def opcodeTable : List Row := opcodeTableLow ++ opcodeTable8 ++ opcodeTableHigh

/-- The mnemonic of an instruction's row (30_encoding.md R105). -/
def Instr.mnemonic : Instr → String
  | .cls => "CLS"
  | .ret => "RET"
  | .jp _ => "JP"
  | .call _ => "CALL"
  | .sevxb _ _ => "SEVXB"
  | .snevxb _ _ => "SNEVXB"
  | .sevxy _ _ => "SEVXY"
  | .ldvxb _ _ => "LDVXB"
  | .addvxb _ _ => "ADDVXB"
  | .ldvxy _ _ => "LDVXY"
  | .or _ _ => "OR"
  | .and _ _ => "AND"
  | .xor _ _ => "XOR"
  | .addvxy _ _ => "ADDVXY"
  | .subvxy _ _ => "SUBVXY"
  | .shr _ _ => "SHR"
  | .subn _ _ => "SUBN"
  | .shl _ _ => "SHL"
  | .snevxy _ _ => "SNEVXY"
  | .ldi _ => "LDI"
  | .jr _ => "JR"
  | .rnd _ _ => "RND"
  | .drw _ _ _ => "DRW"
  | .skp _ => "SKP"
  | .sknp _ => "SKNP"
  | .ldvxdt _ => "LDVXDT"
  | .ldvxk _ => "LDVXK"
  | .lddtvx _ => "LDDTVX"
  | .ldstvx _ => "LDSTVX"
  | .addivx _ => "ADDIVX"
  | .ldfvx _ => "LDFVX"
  | .ldbvx _ => "LDBVX"
  | .ldivx _ => "LDIVX"
  | .ldvxi _ => "LDVXI"

/-! The encoder. -/

/-- Format NNN (30_encoding.md R102): `tttt aaaa aaaa aaaa`. -/
def packNnn (t : BitVec 4) (nnn : BitVec 12) : Word := (t ++ nnn : BitVec 16)
/-- Format XKK: `tttt xxxx kkkk kkkk`. Format X is the same with a fixed low byte. -/
def packXkk (t : BitVec 4) (x : RegIdx) (kk : Byte) : Word := (t ++ (BitVec.ofFin x : BitVec 4) ++ kk : BitVec 16)
/-- Format XYN: `tttt xxxx yyyy nnnn`. Format XY is the same with a fixed low nybble. -/
def packXyn (t : BitVec 4) (x y : RegIdx) (n : BitVec 4) : Word :=
  (t ++ (BitVec.ofFin x : BitVec 4) ++ (BitVec.ofFin y : BitVec 4) ++ n : BitVec 16)

/-- The word of an instruction (30_encoding.md R102, R105). The y field of SHR and SHL is kept: it takes any
value and is not used (R108). -/
def encode : Instr → Word
  | .cls => 0x00E0
  | .ret => 0x00EE
  | .jp nnn => packNnn 0x1 nnn
  | .call nnn => packNnn 0x2 nnn
  | .sevxb x kk => packXkk 0x3 x kk
  | .snevxb x kk => packXkk 0x4 x kk
  | .sevxy x y => packXyn 0x5 x y 0x0
  | .ldvxb x kk => packXkk 0x6 x kk
  | .addvxb x kk => packXkk 0x7 x kk
  | .ldvxy x y => packXyn 0x8 x y 0x0
  | .or x y => packXyn 0x8 x y 0x1
  | .and x y => packXyn 0x8 x y 0x2
  | .xor x y => packXyn 0x8 x y 0x3
  | .addvxy x y => packXyn 0x8 x y 0x4
  | .subvxy x y => packXyn 0x8 x y 0x5
  | .shr x y => packXyn 0x8 x y 0x6
  | .subn x y => packXyn 0x8 x y 0x7
  | .shl x y => packXyn 0x8 x y 0xE
  | .snevxy x y => packXyn 0x9 x y 0x0
  | .ldi nnn => packNnn 0xA nnn
  | .jr nnn => packNnn 0xB nnn
  | .rnd x kk => packXkk 0xC x kk
  | .drw x y n => packXyn 0xD x y (BitVec.ofNat 4 n)
  | .skp x => packXkk 0xE x 0x9E
  | .sknp x => packXkk 0xE x 0xA1
  | .ldvxdt x => packXkk 0xF x 0x07
  | .ldvxk x => packXkk 0xF x 0x0A
  | .lddtvx x => packXkk 0xF x 0x15
  | .ldstvx x => packXkk 0xF x 0x18
  | .addivx x => packXkk 0xF x 0x1E
  | .ldfvx x => packXkk 0xF x 0x29
  | .ldbvx x => packXkk 0xF x 0x33
  | .ldivx x => packXkk 0xF x 0x55
  | .ldvxi x => packXkk 0xF x 0x65

/-- The bytes of an instruction as memory holds them, high byte first (20_memory.md R74). -/
def encodeBytes (ins : Instr) : List Byte := [highByte (encode ins), lowByte (encode ins)]

end Sys2Proof
end

