-- ==== Sys2Proof/Config.lean ====
section
/-! DEFINITION. What the spec leaves open: the kinds of its configuration parameters (00_scope.md R9; the
values are in Machine/Params.lean, where a repair can reach them) and the free values, which have no body. -/

namespace Sys2Proof

/-- What a `0nnn` word other than 00E0 and 00EE does (00_scope.md R9, 92_eei_decisions.md D1). -/
inductive Opcode0nnnPolicy where
  | decodeError
  | nop
  deriving DecidableEq, Repr

/-- The register SHR and SHL read (00_scope.md R9, 92_eei_decisions.md D2). -/
inductive ShiftSource where
  | vx
  | vy
  deriving DecidableEq, Repr

/-- The order of the VF write and the destination write (00_scope.md R9, 92_eei_decisions.md D3). -/
inductive FlagOrder where
  | flagThenResult
  | resultThenFlag
  deriving DecidableEq, Repr

/-- The bytes added to the target of JP and CALL, 0 or 2 (00_scope.md R9, 92_eei_decisions.md D31). -/
inductive JumpLandingOffset where
  | zero
  | two
  deriving DecidableEq, Repr

/-- The parameters of 00_scope.md R9 that have a value: the 80 font bytes and the six that choose between
behaviours. The other three (RANDOM, TICK, KEY_WAIT) are draws: the free values below and the key-wait handler. -/
structure Params where
  font              : Vector Byte 80
  opcode0nnnPolicy  : Opcode0nnnPolicy
  shiftSource       : ShiftSource
  flagOrder         : FlagOrder
  logicVfReset      : Bool
  bulkIIncrement    : Bool
  jumpLandingOffset : JumpLandingOffset
  deriving DecidableEq, Repr

/-- `RANDOM` (00_scope.md R9): the byte the n-th RandomByte() gives. Free: the spec gives it no law
(42_alu.md R184). Log 5. -/
opaque Config.randomByte : Nat → Byte

/-- `TICK` (00_scope.md R9): whether the 60 Hz interval has elapsed when Tick() is read for the n-th time.
Free (40_cycle.md R135). Log 6. -/
opaque Config.tick : Nat → Bool

/-- The timestamp `LastTick` takes when the n-th Tick() is true. Free: the spec does not give its update
rule (91_not_in_source.md NS17). Log 7. -/
opaque Config.tickTime : Nat → Nat

end Sys2Proof
end

