-- ==== Sys2Proof/Machine/Params.lean ====
section
/-! DEFINITION. The values this model gives the parameters of 00_scope.md R9: the spec's defaults. They stand
here, not in Config.lean, so that a repair can change them. -/

namespace Sys2Proof

/-- The number the parameter stands for (92_eei_decisions.md D31). -/
def JumpLandingOffset.bytes : JumpLandingOffset → Word
  | .zero => 0
  | .two => 2

/-- The glyphs 0 to 7 of `FONT` (20_memory.md R76). -/
def Config.fontLow : List Byte := [
  0xF0, 0x90, 0x90, 0x90, 0xF0,
  0x20, 0x60, 0x20, 0x20, 0x70,
  0xF0, 0x10, 0xF0, 0x80, 0xF0,
  0xF0, 0x10, 0xF0, 0x10, 0xF0,
  0x90, 0x90, 0xF0, 0x10, 0x10,
  0xF0, 0x80, 0xF0, 0x10, 0xF0,
  0xF0, 0x80, 0xF0, 0x90, 0xF0,
  0xF0, 0x10, 0x20, 0x40, 0x40]

/-- The glyphs 8 to F of `FONT` (20_memory.md R76). -/
def Config.fontHigh : List Byte := [
  0xF0, 0x90, 0xF0, 0x90, 0xF0,
  0xF0, 0x90, 0xF0, 0x10, 0xF0,
  0xF0, 0x90, 0xF0, 0x90, 0x90,
  0xE0, 0x90, 0xE0, 0x90, 0xE0,
  0xF0, 0x80, 0x80, 0x80, 0xF0,
  0xE0, 0x90, 0x90, 0x90, 0xE0,
  0xF0, 0x80, 0xF0, 0x80, 0xF0,
  0xF0, 0x80, 0xF0, 0x80, 0x80]

/-- `FONT`: the 80 font bytes, by default the standard CHIP-8 font (20_memory.md R76). PRESUMED by the spec
from general knowledge; log 9. -/
def Config.font : List Byte := Config.fontLow ++ Config.fontHigh

/-- The defaults of 00_scope.md R9. Log 11. -/
def Config.params : Params where
  font := ⟨Config.font.toArray, rfl⟩
  opcode0nnnPolicy := .decodeError
  shiftSource := .vx
  flagOrder := .flagThenResult
  logicVfReset := false
  bulkIIncrement := false
  jumpLandingOffset := .zero

end Sys2Proof
end

