-- ==== Sys2Proof/Machine/State.lean ====
section
/-! DEFINITION. The state of the core (10_state.md R30), its faults (60_exceptions.md R261), and the state
after reset (70_reset_and_hazards.md R311). -/

namespace Sys2Proof.Machine

/-- The faults a cycle can raise, each with the info the spec records (60_exceptions.md R261). A cycle that raises
one answers a NEXT state, the state of the fault's entry (R266, log 1); `step` answers `.fault f` in a state
whose `Fault` is already f, because then no cycle runs. Stopping there is safe: the core itself stays in that
state until it is discarded. -/
inductive Fault where
  /-- Code 1, not terminal. Raised by Decode on an illegal word `op` (R262). Safe: the run goes on after it (R267). -/
  | decodeError (op : Word)
  /-- Code 2, terminal. Raised by Fetch when PC > 0xFFE, with PC (R263). Safe: the spec fails closed. -/
  | fetchOutOfRange (pc : Word)
  /-- Code 3, terminal. Raised by DRW, LDBVX, LDIVX, LDVXI when the last byte of the access is above 0xFFF, with
  I and the length of the access (R265). Safe: the access is to an address that does not exist. -/
  | memoryOutOfRange (i : Word) (len : Nat)
  /-- Code 4, terminal. Raised by CALL when SP = 16, with the CALL's address (R264). Safe. -/
  | stackOverflow (addr : Word)
  /-- Code 5, terminal. Raised by RET when SP = 0, with the RET's address (R264). Safe. -/
  | stackUnderflow (addr : Word)
  /-- Code 6, terminal. Raised by SKP and SKNP when V[x] > 0xF, with V[x] (R268). Safe. -/
  | keyIndexOutOfRange (v : Byte)
  /-- Code 7, terminal. Raised by ADDIVX when I + V[x] > 0xFFFF, with the exact sum (R269). Safe. -/
  | indexOverflow (sum : Nat)
  deriving DecidableEq, Repr

/-- Why a step can be refused. Every instruction has its meaning, so no step is. -/
inductive Refusal where
  /-- Raised by an arm of `exec` for an instruction that has no meaning yet: none now. Safe. -/
  | notModelled (mnemonic : String)
  deriving DecidableEq, Repr

/-- The mode of 10_state.md R46: ready to fetch, or blocked in the wait-for-key whose destination is V[x]. -/
inductive Mode where
  | ready
  | awaitingKey (x : RegIdx)
  deriving DecidableEq, Repr

/-- The display of 10_state.md R43, 32 rows of 64 pixels: `Pix[x][y]` is `pix[y][x]`. -/
abbrev Display := Vector (Vector Bool 64) 32

/-- The state of the core. The first thirteen fields are the elements of 10_state.md R30, in its order. -/
structure State where
  /-- `Mem` (R45): the cells that differ from the reset contents, addresses rising (Machine/Memory.lean). -/
  mem           : List Host.Cell
  /-- `V[0..15]` (R31). -/
  v             : Vector Byte 16
  /-- `I` (R34). -/
  i             : Word
  /-- `PC` (R35). -/
  pc            : Word
  /-- `Stack[0..15]` (R38). -/
  stack         : Vector Word 16
  /-- `SP`, 0 to 16 (R39). -/
  sp            : Fin 17
  /-- `DT` (R40). -/
  dt            : Byte
  /-- `ST` (R41). -/
  st            : Byte
  /-- `Key[0..15]`, true when down (R42). -/
  keys          : Vector Bool 16
  /-- `Pix` (R43). -/
  pix           : Display
  /-- `Mode` (R46). -/
  mode          : Mode
  /-- `Fault` (R47). -/
  fault         : Option Fault
  /-- `LastTick` (R48), on a clock that starts at construction. Log 7. -/
  lastTick      : Nat
  /-- The key-wait handler (R49, 60_exceptions.md R283): none installed, or the bytes it will return. Log 4. -/
  keyHandler    : Option (List Byte)
  /-- Whether a display-update handler is installed (R49, 60_exceptions.md R284). -/
  displayHandler : Bool
  /-- The model's own: what the last cycle returned to the caller of step, none for Ok. Log 3. -/
  returned      : Option Fault
  /-- The model's own: how often NotifyDisplay() was called (44_display.md R223). Log 8. -/
  notifications : Nat
  /-- The model's own: how many notifications reached an installed handler. Log 8. -/
  handlerCalls  : Nat
  /-- The model's own: how many bytes RandomByte() has given. Log 5. -/
  randomDraws   : Nat
  /-- The model's own: how many times Tick() has been read. Log 6. -/
  tickDraws     : Nat
  deriving DecidableEq, Repr

/-- The state `new()` constructs (70_reset_and_hazards.md R311): every element at the value 10_state.md R30
gives it. Memory lists nothing: an unlisted address reads as the reset contents (Machine/Memory.lean). -/
def State.reset : State where
  mem := []
  v := Vector.replicate 16 0
  i := 0
  pc := 0x200
  stack := Vector.replicate 16 0
  sp := 0
  dt := 0
  st := 0
  keys := Vector.replicate 16 false
  pix := Vector.replicate 32 (Vector.replicate 64 false)
  mode := .ready
  fault := none
  lastTick := 0
  keyHandler := none
  displayHandler := false
  returned := none
  notifications := 0
  handlerCalls := 0
  randomDraws := 0
  tickDraws := 0

end Sys2Proof.Machine
end

