-- ==== Sys2Proof/Machine/Memory.lean ====
section
/-! DEFINITION. The 4096-byte memory as a list of cells in one canonical form (20_memory.md R70; log 14). -/

namespace Sys2Proof.Machine

/-- `MEM_SIZE` (00_scope.md R8). -/
def memSize : Nat := 4096

/-- The memory: the cells that differ from the reset contents, in rising order of address. -/
abbrev Memory := List Host.Cell

/-- What an unlisted address reads as: the reset contents (20_memory.md R70, R76, R77), the font at 0x000 to
0x04F and zero elsewhere. -/
def Memory.background (a : Nat) : Byte := (Config.font[a]?).getD 0

/-- The cells are in rising order, each address is above `lo`'s predecessor and exists, and no cell holds what
an unlisted address reads as. -/
def Memory.wfFrom (lo : Nat) : Memory → Bool
  | [] => true
  | (a, b) :: rest => decide (lo ≤ a) && decide (a < memSize) && decide (b ≠ background a) && wfFrom (a + 1) rest

/-- The canonical form: equal memories are equal lists. -/
def Memory.wf (m : Memory) : Bool := Memory.wfFrom 0 m

/-- `MemRead(addr, 1)` (00_scope.md R13). -/
def Memory.read (a : Nat) : Memory → Byte
  | [] => background a
  | (k, b) :: rest => if a = k then b else read a rest

/-- Put a cell in its place, or take it out when the byte is what an unlisted address reads as. -/
def Memory.insert (a : Nat) (b : Byte) : Memory → Memory
  | [] => if b = background a then [] else [(a, b)]
  | (k, c) :: rest =>
    if a < k then (if b = background a then (k, c) :: rest else (a, b) :: (k, c) :: rest)
    else if a = k then (if b = background a then rest else (a, b) :: rest)
    else (k, c) :: insert a b rest

/-- `MemWrite(addr, 1, b)` (00_scope.md R13). It is defined only for addresses up to 0xFFF; every access is
checked before it (20_memory.md R73), so a write elsewhere, which changes nothing, is never made. -/
def Memory.write (a : Nat) (b : Byte) (m : Memory) : Memory :=
  if a < memSize then insert a b m else m

/-- Write consecutive bytes from address `a` on (20_memory.md R78). -/
def Memory.writeAll (a : Nat) : List Byte → Memory → Memory
  | [], m => m
  | b :: rest, m => writeAll (a + 1) rest (write a b m)

end Sys2Proof.Machine
end

