-- ==== Sys2Proof/Machine/Ops.lean ====
section
/-! DEFINITION. The named operations every meaning is written over: registers, memory, return stack, keys,
display, notification, timers, the wait for a key, and fault entry with the return from it. -/

namespace Sys2Proof.Machine

/-- What Execute answers. -/
abbrev Result := Host.Outcome State Fault Refusal

/-! ## Registers and memory -/

/-- `V[x]` (00_scope.md R12). No register is hard-wired (10_state.md R31). -/
def State.reg (s : State) (x : RegIdx) : Byte := s.v[x]

/-- `V[x] <- b`. -/
def State.setReg (s : State) (x : RegIdx) (b : Byte) : State := { s with v := s.v.set x b }

/-- `MemRead(a, 1)`. -/
def State.readByte (s : State) (a : Nat) : Byte := Memory.read a s.mem

/-- `MemWrite(a, 1, b)`. -/
def State.writeByte (s : State) (a : Nat) (b : Byte) : State := { s with mem := Memory.write a b s.mem }

/-! ## Fault entry and return (60_exceptions.md R266, R267) -/

/-- The code the spec labels a fault with (60_exceptions.md R261). -/
def Fault.code : Fault → Nat
  | .decodeError _ => 1
  | .fetchOutOfRange _ => 2
  | .memoryOutOfRange _ _ => 3
  | .stackOverflow _ => 4
  | .stackUnderflow _ => 5
  | .keyIndexOutOfRange _ => 6
  | .indexOverflow _ => 7

/-- Whether the fault is terminal (60_exceptions.md R261): every one but DecodeError. -/
def Fault.terminal : Fault → Bool
  | .decodeError _ => false
  | .fetchOutOfRange _ | .memoryOutOfRange _ _ | .stackOverflow _ | .stackUnderflow _ => true
  | .keyIndexOutOfRange _ | .indexOverflow _ => true

/-- The state of a fault's entry (60_exceptions.md R266): the cycle stops where it is and returns the error;
nothing is changed, but for `Fault` when the fault is terminal. There is no vector, no saved register, no mode
change; PC keeps the advance the fetch made. -/
def State.enterFault (f : Fault) (s : State) : State :=
  { s with returned := some f, fault := if f.terminal then some f else s.fault }

/-- Raise a fault: the one way a meaning and the cycle take one (log 1). -/
def raise (f : Fault) (s : State) : Result := .next (s.enterFault f)

/-- The return from a fault. There is no return instruction: a DecodeError leaves `Fault` as it was, so the
next cycle fetches at the current PC (R267); a cycle begins by forgetting what the last one returned. -/
def State.beginCycle (s : State) : State := { s with returned := none }

/-! ## Return stack (10_state.md R38, R39) -/

/-- `Stack[SP] <- PC; SP <- SP + 1`, for SP below 16. -/
def State.pushReturn (s : State) (h : s.sp.val < 16) : State :=
  { s with stack := s.stack.set s.sp.val s.pc h, sp := ⟨s.sp.val + 1, by omega⟩ }

/-- `SP <- SP - 1; PC <- Stack[SP]`, for SP above 0. The slot keeps its value (10_state.md R38). -/
def State.popReturn (s : State) (h : 0 < s.sp.val) : State :=
  { s with sp := ⟨s.sp.val - 1, by omega⟩, pc := s.stack[s.sp.val - 1]'(by omega) }

/-! ## Display (10_state.md R43, 44_display.md R220, R223) -/

/-- `Pix[x][y]`. -/
def Display.get (d : Display) (x : Fin 64) (y : Fin 32) : Bool := (d[y])[x]

/-- `Pix[x][y] <- Pix[x][y] XOR 1`. -/
def Display.flip (d : Display) (x : Fin 64) (y : Fin 32) : Display := d.set y ((d[y]).set x (!(d.get x y)))

/-- Every pixel off. -/
def Display.clear : Display := Vector.replicate 32 (Vector.replicate 64 false)

/-- `NotifyDisplay()` (44_display.md R223): one notification, which carries no data and changes no core state;
with no handler installed it is dropped. -/
def State.notifyDisplay (s : State) : State :=
  { s with notifications := s.notifications + 1,
           handlerCalls := if s.displayHandler then s.handlerCalls + 1 else s.handlerCalls }

/-! ## Free draws, timers, the wait for a key -/

/-- `RandomByte()` (00_scope.md R14): a free byte. Log 5. -/
def State.randomByte (s : State) : Byte := Config.randomByte s.randomDraws

/-- The draw after `RandomByte()` is another one. -/
def State.afterRandomByte (s : State) : State := { s with randomDraws := s.randomDraws + 1 }

/-- One decrement opportunity of a timer: it stops at 0 (40_cycle.md R135). -/
def tickTimer (tick : Bool) (t : Byte) : Byte := if tick && t ≠ 0 then t - 1 else t

/-- The timer advance at the end of a completed cycle (40_cycle.md R135), `tick` being what Tick() gives. -/
def State.advanceTimers (tick : Bool) (s : State) : State :=
  { s with dt := tickTimer tick s.dt, st := tickTimer tick s.st,
           lastTick := if tick then Config.tickTime s.tickDraws else s.lastTick,
           tickDraws := s.tickDraws + 1 }

/-- `HostKeyWait()` for the destination V[x] (40_cycle.md R134, 45_timers_keys.md R245): when the installed
handler returns a byte it is stored verbatim and the mode is Ready; until then the mode is AwaitingKey(x). Log 4. -/
def State.awaitKey (x : RegIdx) (s : State) : State :=
  match s.keyHandler with
  | some (b :: rest) => { s.setReg x b with mode := .ready, keyHandler := some rest }
  | _ => { s with mode := .awaitingKey x }

end Sys2Proof.Machine
end

