-- ==== Sys2Proof/Machine/Cycle.lean ====
section
/-! DEFINITION. The execution cycle around Execute (40_cycle.md R130), for any Execute and any parameters. -/

namespace Sys2Proof.Machine

/-- Fetch's check: `PC+1` is an address of memory (40_cycle.md R131). -/
def State.fetchOk (s : State) : Bool := decide (s.pc.toNat ≤ 0xFFE)

/-- The big-endian word at [PC, PC+1] (20_memory.md R74). -/
def State.fetchWord (s : State) : Word := wordOfBytes (s.readByte s.pc.toNat) (s.readByte (s.pc.toNat + 1))

/-- Fetch's one effect: `PC <- PC + 2` (40_cycle.md R131). -/
def State.fetched (s : State) : State := { s with pc := s.pc + 2 }

/-- Whether the cycle's Execute has completed: it neither waits for a key nor has raised a fault. -/
def State.completed (s : State) : Bool := s.mode = .ready ∧ s.returned = none

/-- The end of a cycle: the timer advance, once, if Execute completed (40_cycle.md R135). -/
def State.endCycle (s : State) : State := if s.completed then s.advanceTimers (Config.tick s.tickDraws) else s

/-- The end of a cycle after what Execute answered. -/
def endOf : Result → Result
  | .next s => .next s.endCycle
  | .fault f => .fault f
  | .refused r => .refused r

/-- An illegal word (30_encoding.md R107): DecodeError, or no effect when it is a `0nnn` word and
OPCODE_0NNN_POLICY is nop (00_scope.md R9; log 13). -/
def illegalWord (p : Params) (op : Word) (s : State) : Result :=
  if p.opcode0nnnPolicy = .nop ∧ fieldT op = 0 then endOf (.next s) else raise (.decodeError op) s

/-- Decode and Execute of a fetched word (40_cycle.md R132, R133). -/
def runWord (p : Params) (ex : Instr → State → Result) (op : Word) (s : State) : Result :=
  match decode op with
  | .ok ins => endOf (ex ins s)
  | .error _ => illegalWord p op s

/-- One cycle (40_cycle.md R130), or, while a cycle waits for a key, the rest of that cycle if the host has
answered (R134). In a terminal fault no cycle runs and the step returns it again (60_exceptions.md R266). -/
def cycle (p : Params) (ex : Instr → State → Result) (s : State) : Result :=
  match s.fault with
  | some f => .fault f
  | none =>
    match s.mode with
    | .awaitingKey x => endOf (.next (s.beginCycle.awaitKey x))
    | .ready =>
      if s.fetchOk then runWord p ex s.fetchWord s.beginCycle.fetched
      else raise (.fetchOutOfRange s.pc) s.beginCycle

end Sys2Proof.Machine
end

