-- ==== Sys2Proof/Machine/Flags.lean ====
section
/-! DEFINITION. Every flag computation of the instruction set (42_alu.md R172, 44_display.md R222), and the
write of a flag beside a result (10_state.md R33). -/

namespace Sys2Proof.Machine

/-- A flag as VF holds it, 0 or 1. -/
def flagByte (c : Bool) : Byte := if c then 1 else 0

/-- ADDVXY: 1 if the exact sum is above 0xFF (42_alu.md R179). -/
def carryFlag (a b : Byte) : Byte := flagByte (decide (a.toNat + b.toNat > 0xFF))

/-- SUBVXY of a and b, SUBN of b and a: 1 if the first is strictly greater (42_alu.md R180, R182). -/
def notBorrowFlag (a b : Byte) : Byte := flagByte (decide (a.toNat > b.toNat))

/-- SHR: bit 0 before the shift (42_alu.md R181). -/
def shrFlag (a : Byte) : Byte := a &&& 0x01

/-- SHL: bit 7 before the shift, moved to bit 0 (42_alu.md R183). -/
def shlFlag (a : Byte) : Byte := (a >>> 7) &&& 0x01

/-- DRW: 1 if any pixel went from on to off (44_display.md R222). -/
def collisionFlag (c : Bool) : Byte := flagByte c

/-- Write the flag to VF and the result to V[x]: flag first by default, so that VF ends holding the result when
x = 0xF (10_state.md R33); the other way round under the other value of FLAG_ORDER (00_scope.md R9). -/
def State.setFlagAndResult (order : FlagOrder) (x : RegIdx) (flag result : Byte) (s : State) : State :=
  match order with
  | .flagThenResult => (s.setReg vf flag).setReg x result
  | .resultThenFlag => (s.setReg x result).setReg vf flag

end Sys2Proof.Machine
end

