-- ==== Sys2Proof/Machine/Alu.lean ====
section
/-! DEFINITION. Register loads and ALU (42_alu.md). Operands are read before anything is written (R170). -/

namespace Sys2Proof.Machine

/-- A logic operation under given parameters: the result to V[x], and under `LOGIC_VF_RESET` also 0 to VF
(00_scope.md R9; log 12). -/
def logicWith (p : Params) (x : RegIdx) (result : Byte) (s : State) : Result :=
  if p.logicVfReset then .next (s.setFlagAndResult p.flagOrder x 0 result) else .next (s.setReg x result)

/-- OR under given parameters. -/
def orWith (p : Params) (x y : RegIdx) (s : State) : Result := logicWith p x (s.reg x ||| s.reg y) s

/-- AND under given parameters. -/
def andWith (p : Params) (x y : RegIdx) (s : State) : Result := logicWith p x (s.reg x &&& s.reg y) s

/-- XOR under given parameters. -/
def xorWith (p : Params) (x y : RegIdx) (s : State) : Result := logicWith p x (s.reg x ^^^ s.reg y) s

/-- ADDVXY under given parameters. -/
def addvxyWith (p : Params) (x y : RegIdx) (s : State) : Result :=
  .next (s.setFlagAndResult p.flagOrder x (carryFlag (s.reg x) (s.reg y)) (s.reg x + s.reg y))

/-- SUBVXY under given parameters. -/
def subvxyWith (p : Params) (x y : RegIdx) (s : State) : Result :=
  .next (s.setFlagAndResult p.flagOrder x (notBorrowFlag (s.reg x) (s.reg y)) (s.reg x - s.reg y))

/-- SUBN under given parameters. -/
def subnWith (p : Params) (x y : RegIdx) (s : State) : Result :=
  .next (s.setFlagAndResult p.flagOrder x (notBorrowFlag (s.reg y) (s.reg x)) (s.reg y - s.reg x))

/-- The value a shift reads (`SHIFT_SOURCE`, 00_scope.md R9). -/
def shiftOperand (p : Params) (x y : RegIdx) (s : State) : Byte :=
  match p.shiftSource with
  | .vx => s.reg x
  | .vy => s.reg y

/-- SHR under given parameters. -/
def shrWith (p : Params) (x y : RegIdx) (s : State) : Result :=
  .next (s.setFlagAndResult p.flagOrder x (shrFlag (shiftOperand p x y s)) (shiftOperand p x y s >>> 1))

/-- SHL under given parameters. -/
def shlWith (p : Params) (x y : RegIdx) (s : State) : Result :=
  .next (s.setFlagAndResult p.flagOrder x (shlFlag (shiftOperand p x y s)) (shiftOperand p x y s <<< 1))

/-- LDVXB x, kk (42_alu.md R173). -/
def execLdvxb (x : RegIdx) (kk : Byte) (s : State) : Result := .next (s.setReg x kk)

/-- ADDVXB x, kk (42_alu.md R174): no carry. -/
def execAddvxb (x : RegIdx) (kk : Byte) (s : State) : Result := .next (s.setReg x (s.reg x + kk))

/-- LDVXY x, y (42_alu.md R175). -/
def execLdvxy (x y : RegIdx) (s : State) : Result := .next (s.setReg x (s.reg y))

/-- OR x, y (42_alu.md R176). -/
def execOr (x y : RegIdx) (s : State) : Result := orWith Config.params x y s

/-- AND x, y (42_alu.md R177). -/
def execAnd (x y : RegIdx) (s : State) : Result := andWith Config.params x y s

/-- XOR x, y (42_alu.md R178). -/
def execXor (x y : RegIdx) (s : State) : Result := xorWith Config.params x y s

/-- ADDVXY x, y (42_alu.md R179). -/
def execAddvxy (x y : RegIdx) (s : State) : Result := addvxyWith Config.params x y s

/-- SUBVXY x, y (42_alu.md R180). -/
def execSubvxy (x y : RegIdx) (s : State) : Result := subvxyWith Config.params x y s

/-- SHR x, y (42_alu.md R181). -/
def execShr (x y : RegIdx) (s : State) : Result := shrWith Config.params x y s

/-- SUBN x, y (42_alu.md R182). -/
def execSubn (x y : RegIdx) (s : State) : Result := subnWith Config.params x y s

/-- SHL x, y (42_alu.md R183). -/
def execShl (x y : RegIdx) (s : State) : Result := shlWith Config.params x y s

/-- RND x, kk (42_alu.md R184): a free byte, masked. -/
def execRnd (x : RegIdx) (kk : Byte) (s : State) : Result := .next (s.afterRandomByte.setReg x (s.randomByte &&& kk))

end Sys2Proof.Machine
end

