-- ==== Sys2Proof/Machine/Operands.lean ====
section
/-! DEFINITION. The operand forms (30_encoding.md R103) and the one data addressing mode (43_index_memory.md
R200), with its bounds check; the bulk register transfers; the skip. -/

namespace Sys2Proof.Machine

/-- `zext_16(nnn)`: an address operand as PC and I take it (30_encoding.md R103). -/
def zextNnn (nnn : BitVec 12) : Word := nnn.setWidth 16

/-- `zext_16(v)` of a byte. -/
def zextByte (b : Byte) : Word := b.setWidth 16

/-- The address of byte k of a transfer: `I + k`, exact, no wrap (43_index_memory.md R200). -/
def State.dataAddr (s : State) (k : Nat) : Nat := s.i.toNat + k

/-- Whether a transfer of `len` bytes from I stays inside memory: it has no byte, or its last is at most 0xFFF
(43_index_memory.md R200, 44_display.md R222). -/
def State.accessOk (s : State) (len : Nat) : Bool := decide (len = 0) || decide (s.dataAddr (len - 1) ≤ 0xFFF)

/-- Check a transfer of `len` bytes from I before its first access (20_memory.md R73): MemoryOutOfRange, or `body`. -/
def checkedAccess (len : Nat) (body : State → State) (s : State) : Result :=
  if s.accessOk len then .next (body s) else raise (.memoryOutOfRange s.i len) s

/-- A skip: two more bytes when the condition holds (41_flow.md R150). -/
def State.skipIf (s : State) (c : Bool) : State := if c then { s with pc := s.pc + 2 } else s

/-- The register of a transfer's index k. -/
def regOfNat (k : Nat) : RegIdx := Fin.ofNat 16 k

/-- `MemWrite(I + k, 1, V[k])` for k = 0 to n - 1, in order (43_index_memory.md R205). -/
def State.storeRegs (s : State) : Nat → State
  | 0 => s
  | k + 1 => (s.storeRegs k).writeByte (s.dataAddr k) (s.reg (regOfNat k))

/-- `V[k] <- MemRead(I + k, 1)` for k = 0 to n - 1, in order (43_index_memory.md R206). -/
def State.loadRegs (s : State) : Nat → State
  | 0 => s
  | k + 1 => (s.loadRegs k).setReg (regOfNat k) (s.readByte (s.dataAddr k))

/-- I after a bulk transfer of n bytes (00_scope.md R9, `BULK_I_INCREMENT`). DESIGN CHOICE: the spec says only that
I changes under the value true, and gives the amount for n = 1; the model adds n for every n. Log 21. -/
def State.bulkIndex (p : Params) (n : Nat) (s : State) : State :=
  if p.bulkIIncrement then { s with i := s.i + BitVec.ofNat 16 n } else s

/-! The decimal digits of a byte (43_index_memory.md R204). -/

/-- `v div 100`. -/
def hundreds (b : Byte) : Byte := BitVec.ofNat 8 (b.toNat / 100)
/-- `(v div 10) mod 10`. -/
def tens (b : Byte) : Byte := BitVec.ofNat 8 (b.toNat / 10 % 10)
/-- `v mod 10`. -/
def ones (b : Byte) : Byte := BitVec.ofNat 8 (b.toNat % 10)

end Sys2Proof.Machine
end

