-- ==== Sys2Proof/Machine/Draw.lean ====
section
/-! DEFINITION. The display instructions (44_display.md). -/

namespace Sys2Proof.Machine

/-- What a blit carries: the pixels, and whether any has gone from on to off. -/
structure Canvas where
  pix       : Display
  collision : Bool
  deriving DecidableEq, Repr

/-- The column a sprite column lands at: `(x0 + col) mod 64` (44_display.md R220). -/
def columnOf (x0 : Byte) (col : Nat) : Fin 64 := Fin.ofNat 64 (x0.toNat + col)

/-- The row a sprite row lands at: `(y0 + r) mod 32` (44_display.md R220). -/
def rowOf (y0 : Byte) (r : Nat) : Fin 32 := Fin.ofNat 32 (y0.toNat + r)

/-- The bit of a row byte for sprite column col, bit 7 leftmost (44_display.md R220). -/
def spriteBit (b : Byte) (col : Nat) : Bool := b.getLsbD (7 - col)

/-- XOR one set sprite bit into the canvas (44_display.md R222). -/
def Canvas.plot (c : Canvas) (x : Fin 64) (y : Fin 32) : Canvas :=
  { pix := c.pix.flip x y, collision := c.collision || c.pix.get x y }

/-- Columns 0 to cols - 1 of one row byte. -/
def Canvas.drawCols (b x0 : Byte) (y : Fin 32) : Nat → Canvas → Canvas
  | 0, c => c
  | col + 1, c =>
    let d := drawCols b x0 y col c
    if spriteBit b col then d.plot (columnOf x0 col) y else d

/-- Rows 0 to rows - 1 of the sprite at I. -/
def Canvas.drawRows (s : State) (x0 y0 : Byte) : Nat → Canvas → Canvas
  | 0, c => c
  | r + 1, c => (drawRows s x0 y0 r c).drawCols (s.readByte (s.dataAddr r)) x0 (rowOf y0 r) 8

/-- The blit of DRW: the display and the collision after n rows (44_display.md R222). -/
def State.blit (s : State) (x y : RegIdx) (n : Nat) : Canvas :=
  Canvas.drawRows s (s.reg x) (s.reg y) n { pix := s.pix, collision := false }

/-- The pixel writes of DRW, then VF, then one notification. -/
def State.drawSprite (s : State) (x y : RegIdx) (n : Nat) : State :=
  ({ s with pix := (s.blit x y n).pix }.setReg vf (collisionFlag (s.blit x y n).collision)).notifyDisplay

/-- CLS (44_display.md R221). -/
def execCls (s : State) : Result := .next { s with pix := Display.clear }.notifyDisplay

/-- DRW x, y, n (44_display.md R222). -/
def execDrw (x y : RegIdx) (n : Nat) (s : State) : Result := checkedAccess n (fun s => s.drawSprite x y n) s

end Sys2Proof.Machine
end

