-- ==== Sys2Proof/Machine/Flow.lean ====
section
/-! DEFINITION. Control transfer (41_flow.md). Every meaning reads PC already advanced by the fetch (R150). -/

namespace Sys2Proof.Machine

/-- Where JP and CALL land (41_flow.md R152, R153; `JUMP_LANDING_OFFSET`, 00_scope.md R9). -/
def landing (p : Params) (nnn : BitVec 12) : Word := zextNnn nnn + p.jumpLandingOffset.bytes

/-- JP under given parameters. -/
def jpWith (p : Params) (nnn : BitVec 12) (s : State) : Result := .next { s with pc := landing p nnn }

/-- CALL under given parameters. -/
def callWith (p : Params) (nnn : BitVec 12) (s : State) : Result :=
  if h : s.sp.val < 16 then .next { s.pushReturn h with pc := landing p nnn }
  else raise (.stackOverflow (s.pc - 2)) s

/-- RET (41_flow.md R151). -/
def execRet (s : State) : Result :=
  if h : 0 < s.sp.val then .next (s.popReturn h) else raise (.stackUnderflow (s.pc - 2)) s

/-- JP nnn (41_flow.md R152). -/
def execJp (nnn : BitVec 12) (s : State) : Result := jpWith Config.params nnn s

/-- CALL nnn (41_flow.md R153). -/
def execCall (nnn : BitVec 12) (s : State) : Result := callWith Config.params nnn s

/-- SEVXB x, kk (41_flow.md R154). -/
def execSevxb (x : RegIdx) (kk : Byte) (s : State) : Result := .next (s.skipIf (s.reg x == kk))

/-- SNEVXB x, kk (41_flow.md R155). -/
def execSnevxb (x : RegIdx) (kk : Byte) (s : State) : Result := .next (s.skipIf (s.reg x != kk))

/-- SEVXY x, y (41_flow.md R156). -/
def execSevxy (x y : RegIdx) (s : State) : Result := .next (s.skipIf (s.reg x == s.reg y))

/-- SNEVXY x, y (41_flow.md R157). -/
def execSnevxy (x y : RegIdx) (s : State) : Result := .next (s.skipIf (s.reg x != s.reg y))

/-- JR nnn (41_flow.md R158): always V0, and the sum is not reduced. -/
def execJr (nnn : BitVec 12) (s : State) : Result := .next { s with pc := zextNnn nnn + zextByte (s.reg 0) }

end Sys2Proof.Machine
end

