-- ==== Sys2Proof/Machine/Index.lean ====
section
/-! DEFINITION. The index register and memory transfers (43_index_memory.md). None writes VF as a flag. -/

namespace Sys2Proof.Machine

/-- LDIVX under given parameters. -/
def ldivxWith (p : Params) (x : RegIdx) (s : State) : Result :=
  checkedAccess (x.val + 1) (fun s => (s.storeRegs (x.val + 1)).bulkIndex p (x.val + 1)) s

/-- LDVXI under given parameters. -/
def ldvxiWith (p : Params) (x : RegIdx) (s : State) : Result :=
  checkedAccess (x.val + 1) (fun s => (s.loadRegs (x.val + 1)).bulkIndex p (x.val + 1)) s

/-- LDI nnn (43_index_memory.md R201). -/
def execLdi (nnn : BitVec 12) (s : State) : Result := .next { s with i := zextNnn nnn }

/-- ADDIVX x (43_index_memory.md R202): exact, IndexOverflow above 0xFFFF. -/
def execAddivx (x : RegIdx) (s : State) : Result :=
  if s.i.toNat + (s.reg x).toNat > 0xFFFF then raise (.indexOverflow (s.i.toNat + (s.reg x).toNat)) s
  else .next { s with i := BitVec.ofNat 16 (s.i.toNat + (s.reg x).toNat) }

/-- LDFVX x (43_index_memory.md R203): the whole of V[x], not masked. -/
def execLdfvx (x : RegIdx) (s : State) : Result := .next { s with i := 5 * zextByte (s.reg x) }

/-- The three digit bytes of V[x], hundreds first (43_index_memory.md R204). -/
def State.storeDigits (s : State) (x : RegIdx) : State :=
  ((s.writeByte (s.dataAddr 0) (hundreds (s.reg x))).writeByte (s.dataAddr 1) (tens (s.reg x))).writeByte
    (s.dataAddr 2) (ones (s.reg x))

/-- LDBVX x (43_index_memory.md R204). -/
def execLdbvx (x : RegIdx) (s : State) : Result := checkedAccess 3 (fun s => s.storeDigits x) s

/-- LDIVX x (43_index_memory.md R205). -/
def execLdivx (x : RegIdx) (s : State) : Result := ldivxWith Config.params x s

/-- LDVXI x (43_index_memory.md R206). -/
def execLdvxi (x : RegIdx) (s : State) : Result := ldvxiWith Config.params x s

end Sys2Proof.Machine
end

