-- ==== Sys2Proof/Machine/Keypad.lean ====
section
/-! DEFINITION. Keypad and timers (45_timers_keys.md). -/

namespace Sys2Proof.Machine

/-- Check a key index before the keypad is read (45_timers_keys.md R241), then skip if the key's state is `down`. -/
def skipOnKey (down : Bool) (x : RegIdx) (s : State) : Result :=
  if h : (s.reg x).toNat < 16 then .next (s.skipIf (s.keys[(s.reg x).toNat]'h == down))
  else raise (.keyIndexOutOfRange (s.reg x)) s

/-- SKP x (45_timers_keys.md R242). -/
def execSkp (x : RegIdx) (s : State) : Result := skipOnKey true x s

/-- SKNP x (45_timers_keys.md R243). -/
def execSknp (x : RegIdx) (s : State) : Result := skipOnKey false x s

/-- LDVXDT x (45_timers_keys.md R244). -/
def execLdvxdt (x : RegIdx) (s : State) : Result := .next (s.setReg x s.dt)

/-- LDVXK x (45_timers_keys.md R245). -/
def execLdvxk (x : RegIdx) (s : State) : Result := .next (s.awaitKey x)

/-- LDDTVX x (45_timers_keys.md R246). -/
def execLddtvx (x : RegIdx) (s : State) : Result := .next { s with dt := s.reg x }

/-- LDSTVX x (45_timers_keys.md R247). -/
def execLdstvx (x : RegIdx) (s : State) : Result := .next { s with st := s.reg x }

end Sys2Proof.Machine
end

