-- ==== Sys2Proof/Machine/Dispatch.lean ====
section
/-! DEFINITION. Execute (40_cycle.md R133): one arm per instruction, each one call of its meaning. -/

namespace Sys2Proof.Machine

/-- Execute one instruction in the state after its fetch (40_cycle.md R133). -/
def exec (i : Instr) (s : State) : Host.Outcome State Fault Refusal :=
  match i with
  | .cls => Sys2Proof.Machine.execCls s
  | .ret => Sys2Proof.Machine.execRet s
  | .jp nnn => Sys2Proof.Machine.execJp nnn s
  | .call nnn => Sys2Proof.Machine.execCall nnn s
  | .sevxb x kk => Sys2Proof.Machine.execSevxb x kk s
  | .snevxb x kk => Sys2Proof.Machine.execSnevxb x kk s
  | .sevxy x y => Sys2Proof.Machine.execSevxy x y s
  | .ldvxb x kk => Sys2Proof.Machine.execLdvxb x kk s
  | .addvxb x kk => Sys2Proof.Machine.execAddvxb x kk s
  | .ldvxy x y => Sys2Proof.Machine.execLdvxy x y s
  | .or x y => Sys2Proof.Machine.execOr x y s
  | .and x y => Sys2Proof.Machine.execAnd x y s
  | .xor x y => Sys2Proof.Machine.execXor x y s
  | .addvxy x y => Sys2Proof.Machine.execAddvxy x y s
  | .subvxy x y => Sys2Proof.Machine.execSubvxy x y s
  | .shr x y => Sys2Proof.Machine.execShr x y s
  | .subn x y => Sys2Proof.Machine.execSubn x y s
  | .shl x y => Sys2Proof.Machine.execShl x y s
  | .snevxy x y => Sys2Proof.Machine.execSnevxy x y s
  | .ldi nnn => Sys2Proof.Machine.execLdi nnn s
  | .jr nnn => Sys2Proof.Machine.execJr nnn s
  | .rnd x kk => Sys2Proof.Machine.execRnd x kk s
  | .drw x y n => Sys2Proof.Machine.execDrw x y n s
  | .skp x => Sys2Proof.Machine.execSkp x s
  | .sknp x => Sys2Proof.Machine.execSknp x s
  | .ldvxdt x => Sys2Proof.Machine.execLdvxdt x s
  | .ldvxk x => Sys2Proof.Machine.execLdvxk x s
  | .lddtvx x => Sys2Proof.Machine.execLddtvx x s
  | .ldstvx x => Sys2Proof.Machine.execLdstvx x s
  | .addivx x => Sys2Proof.Machine.execAddivx x s
  | .ldfvx x => Sys2Proof.Machine.execLdfvx x s
  | .ldbvx x => Sys2Proof.Machine.execLdbvx x s
  | .ldivx x => Sys2Proof.Machine.execLdivx x s
  | .ldvxi x => Sys2Proof.Machine.execLdvxi x s

end Sys2Proof.Machine
end

