-- ==== Sys2Proof/Machine/Step.lean ====
section
/-! DEFINITION. The step: one cycle of the core (40_cycle.md R130), and how a word is placed for it to fetch. -/

namespace Sys2Proof.Machine

/-- One cycle of 40_cycle.md R130 with the spec's parameters; see Machine/Cycle.lean. -/
def step (s : State) : Host.Outcome State Fault Refusal := cycle Config.params exec s

/-- Where a word is placed for the next fetch: at PC, or at 0x200 when a fetch at PC would fault. -/
def State.fetchPlace (s : State) : Word := if s.fetchOk then s.pc else 0x200

/-- The state with the word `w` where the next step fetches it: its two bytes, high byte first, at PC and PC+1,
the core ready to fetch (Mode Ready, no terminal fault), PC inside memory. Log 17. -/
def State.withFetchWord (s : State) (nbits w : Nat) : State :=
  let op := BitVec.ofNat 16 (w % 2 ^ nbits)
  { s with pc := s.fetchPlace, mode := .ready, fault := none,
           mem := Memory.writeAll s.fetchPlace.toNat [highByte op, lowByte op] s.mem }

end Sys2Proof.Machine
end

