-- ==== Sys2Proof/Machine/Parametric.lean ====
section
/-! DEFINITION. The machine under any value of the parameters of 00_scope.md R9. Under the spec's values
(Machine/Params.lean) it is `exec` and `step`. -/

namespace Sys2Proof.Machine

/-- Execute under given parameters: the twelve instructions a parameter reaches (00_scope.md R9), the others as
they are. -/
def execWith (p : Params) (ins : Instr) (s : State) : Result :=
  match ins with
  | .jp nnn => jpWith p nnn s
  | .call nnn => callWith p nnn s
  | .or x y => orWith p x y s
  | .and x y => andWith p x y s
  | .xor x y => xorWith p x y s
  | .addvxy x y => addvxyWith p x y s
  | .subvxy x y => subvxyWith p x y s
  | .shr x y => shrWith p x y s
  | .subn x y => subnWith p x y s
  | .shl x y => shlWith p x y s
  | .ldivx x => ldivxWith p x s
  | .ldvxi x => ldvxiWith p x s
  | .cls => execCls s
  | .ret => execRet s
  | .sevxb x kk => execSevxb x kk s
  | .snevxb x kk => execSnevxb x kk s
  | .sevxy x y => execSevxy x y s
  | .ldvxb x kk => execLdvxb x kk s
  | .addvxb x kk => execAddvxb x kk s
  | .ldvxy x y => execLdvxy x y s
  | .snevxy x y => execSnevxy x y s
  | .ldi nnn => execLdi nnn s
  | .jr nnn => execJr nnn s
  | .rnd x kk => execRnd x kk s
  | .drw x y n => execDrw x y n s
  | .skp x => execSkp x s
  | .sknp x => execSknp x s
  | .ldvxdt x => execLdvxdt x s
  | .ldvxk x => execLdvxk x s
  | .lddtvx x => execLddtvx x s
  | .ldstvx x => execLdstvx x s
  | .addivx x => execAddivx x s
  | .ldfvx x => execLdfvx x s
  | .ldbvx x => execLdbvx x s

/-- One cycle under given parameters. -/
def stepWith (p : Params) (s : State) : Result := cycle p (execWith p) s

end Sys2Proof.Machine
end

