-- ==== Sys2Proof/Machine/HostPort.lean ====
section
/-! DEFINITION. The host interface (60_exceptions.md R280 to R291): the operations the host makes between step
calls, its answer to a wait for a key, the read ports, and the end of a run. -/

namespace Sys2Proof.Machine

/-- The errors a host operation returns; none changes the state (60_exceptions.md R274). -/
inductive HostError where
  /-- Code 8: load_memory of more than 3584 bytes, with their number. -/
  | romTooLarge (len : Nat)
  /-- Code 9: set_key with an index above 15, with it. -/
  | keyIndexInvalid (index : Nat)
  /-- Code 10: get_pixel off the grid, with the coordinates. -/
  | pixelOutOfRange (x y : Nat)
  /-- An inspection index above 15, "an error of the same kind" (R287). Log 18. -/
  | inspectIndexInvalid (index : Nat)
  /-- The operation cannot land: a step call is in progress, its cycle waits for a key (R289). Log 15. -/
  | stepInProgress
  deriving DecidableEq, Repr

/-- The code of an error (60_exceptions.md R274). The two errors the table does not list have none. -/
def HostError.code : HostError → Option Nat
  | .romTooLarge _ => some 8
  | .keyIndexInvalid _ => some 9
  | .pixelOutOfRange _ _ => some 10
  | .inspectIndexInvalid _ | .stepInProgress => none

/-- `FONT_BASE` (00_scope.md R8). -/
def fontBase : Nat := 0x000

/-- `PROG_BASE` (00_scope.md R8). -/
def progBase : Nat := 0x200

/-- `MAX_ROM` (00_scope.md R8). -/
def maxRom : Nat := memSize - progBase

/-- `new()` (60_exceptions.md R281). -/
def newCore : State := State.reset

/-- `new()` of a core with given parameters (70_reset_and_hazards.md R311): its `FONT` at 0x000 to 0x04F, every other
element at its reset value. The cells hold what differs from the default font. -/
def newCoreWith (p : Params) : State :=
  { State.reset with mem := Memory.writeAll fontBase p.font.toList State.reset.mem }

/-- An operation the host makes only between step calls (60_exceptions.md R289). -/
def betweenSteps (s : State) (r : Except HostError State) : Except HostError State :=
  match s.mode with
  | .ready => r
  | .awaitingKey _ => .error .stepInProgress

/-- `load_memory(bytes)` (60_exceptions.md R282, 20_memory.md R78). -/
def loadMemory (bytes : List Byte) (s : State) : Except HostError State :=
  betweenSteps s <|
    if bytes.length > maxRom then .error (.romTooLarge bytes.length)
    else .ok { s with mem := Memory.writeAll progBase bytes s.mem }

/-- `set_key(index, pressed)` (60_exceptions.md R286), the only writer of Key. -/
def setKey (index : Nat) (pressed : Bool) (s : State) : Except HostError State :=
  betweenSteps s <|
    if h : index < 16 then .ok { s with keys := s.keys.set index pressed h } else .error (.keyIndexInvalid index)

/-- `set_key_wait_handler(h)` (60_exceptions.md R283), the handler given as the bytes it will return. Log 4. -/
def setKeyWaitHandler (answers : List Byte) (s : State) : Except HostError State :=
  betweenSteps s (.ok { s with keyHandler := some answers })

/-- `set_display_update_handler(h)` (60_exceptions.md R284). -/
def setDisplayUpdateHandler (s : State) : Except HostError State :=
  betweenSteps s (.ok { s with displayHandler := true })

/-- The installed key-wait handler comes to one more byte it returns, the one host input that can land while a
cycle waits (60_exceptions.md R283, R289). With no handler installed no answer comes. -/
def answerKey (b : Byte) (s : State) : State := { s with keyHandler := s.keyHandler.map (· ++ [b]) }

/-- What a call of `step(n)` comes to. -/
inductive StepReply where
  /-- Ok: n cycles have completed. -/
  | ok (s : State)
  /-- Err(F): the first error, at once. -/
  | err (f : Fault) (s : State)
  /-- The call has not returned: a cycle waits for a key, and `left` cycles of the call, this one among them, are
  still to complete. `hostStep left` on the state with the answer goes on with the same call. -/
  | waiting (left : Nat) (s : State)
  /-- A step was refused. -/
  | refused (r : Refusal)
  deriving DecidableEq, Repr

/-- What one cycle came to (40_cycle.md R139), read off the state after it. -/
inductive CycleOutcome where
  | ok
  | err (f : Fault)
  | suspended
  deriving DecidableEq, Repr

/-- The outcome of the cycle that led to this state (40_cycle.md R139). -/
def State.outcome (s : State) : CycleOutcome :=
  match s.mode with
  | .awaitingKey _ => .suspended
  | .ready => match s.returned with
    | some f => .err f
    | none => .ok

/-- `step(n)` over any cycle (40_cycle.md R136): up to n cycles, stopping at the first error. -/
def runCycles (oneCycle : State → Result) : Nat → State → StepReply
  | 0, s => .ok s
  | n + 1, s =>
    match oneCycle s with
    | .next t =>
      match t.outcome with
      | .ok => runCycles oneCycle n t
      | .err f => .err f t
      | .suspended => .waiting (n + 1) t
    | .fault f => .err f s
    | .refused r => .refused r

/-- `step(n)` (40_cycle.md R136). -/
def hostStep (n : Nat) (s : State) : StepReply := runCycles step n s

/-- `step(n)` under given parameters. -/
def hostStepWith (p : Params) (n : Nat) (s : State) : StepReply := runCycles (stepWith p) n s

/-! ## Read ports (60_exceptions.md R287, R288): they change nothing. -/

/-- V[k]. -/
def inspectV (k : Nat) (s : State) : Except HostError Byte :=
  if h : k < 16 then .ok (s.v[k]'h) else .error (.inspectIndexInvalid k)

/-- Stack[k]. -/
def inspectStack (k : Nat) (s : State) : Except HostError Word :=
  if h : k < 16 then .ok (s.stack[k]'h) else .error (.inspectIndexInvalid k)

/-- PC, SP, I, DT, ST. -/
def inspectPc (s : State) : Word := s.pc
def inspectSp (s : State) : Nat := s.sp.val
def inspectI (s : State) : Word := s.i
def inspectDt (s : State) : Byte := s.dt
def inspectSt (s : State) : Byte := s.st

/-- A framebuffer byte: 0xFF when the pixel is on, 0x00 when off (10_state.md R44). -/
def pixelByte (on : Bool) : Byte := if on then 0xFF else 0x00

/-- `get_pixel(x, y)` (60_exceptions.md R288): the pixel's three bytes. -/
def getPixel (x y : Nat) (s : State) : Except HostError (Byte × Byte × Byte) :=
  if h : x < 64 ∧ y < 32 then
    let b := pixelByte (s.pix.get ⟨x, h.1⟩ ⟨y, h.2⟩)
    .ok (b, b, b)
  else .error (.pixelOutOfRange x y)

/-- The three bytes of each pixel of one row. -/
def rowBytes (row : Vector Bool 64) : List Byte :=
  row.toList.flatMap fun on => [pixelByte on, pixelByte on, pixelByte on]

/-- `get_display_buffer()` (60_exceptions.md R288): the 6144-byte view of 10_state.md R44, row after row. -/
def displayBuffer (s : State) : List Byte := s.pix.toList.flatMap rowBytes

/-- The end of a run, for observation (60_exceptions.md R291): ready, no fault, and the word at PC jumps to PC. -/
def State.endOfRun (s : State) : Bool :=
  s.mode = .ready ∧ s.fault = none ∧ s.fetchOk = true ∧ s.fetchWord = (0x1000 ||| s.pc)

end Sys2Proof.Machine
end

