-- ==== Sys2Proof/Safety.lean ====
section
/-! DEFINITION. What a sound state of the core is, and which states the core can reach. -/

namespace Sys2Proof.Machine

/-- The invariant of the core: memory in its canonical form; PC and every stack slot in the range that
10_state.md R37 derives; `Fault` holds terminal faults only and the step returns it (60_exceptions.md R266); a
cycle that waits for a key has no fault and has returned nothing (R272, 40_cycle.md R134). -/
structure State.Inv (s : State) : Prop where
  memory  : Memory.wf s.mem = true
  pcRange : s.pc.toNat ≤ 0x10FE
  slots   : ∀ k : Fin 16, (s.stack[k]).toNat ≤ 0x1000
  faulted : ∀ f, s.fault = some f → f.terminal = true ∧ s.returned = some f ∧ s.mode = .ready
  waiting : s.mode ≠ .ready → s.returned = none

/-- One move of the core and its host: a step that answers a next state, a host operation that is accepted, or
the host's answer to a wait for a key. -/
inductive Moves (s : State) : State → Prop where
  | step (t) : Machine.step s = .next t → Moves s t
  | loadMemory (bytes t) : Machine.loadMemory bytes s = .ok t → Moves s t
  | setKey (index pressed t) : Machine.setKey index pressed s = .ok t → Moves s t
  | setKeyWaitHandler (answers t) : Machine.setKeyWaitHandler answers s = .ok t → Moves s t
  | setDisplayUpdateHandler (t) : Machine.setDisplayUpdateHandler s = .ok t → Moves s t
  | answerKey (b) : Moves s (Machine.answerKey b s)

/-- The states the core reaches from construction (70_reset_and_hazards.md R310). -/
inductive Reachable : State → Prop where
  | reset : Reachable State.reset
  | move (s t) : Reachable s → Moves s t → Reachable t

/-! ## The frames claims use: what an instruction leaves unchanged -/

/-- Every byte of memory reads as before. -/
def SameMemory (s t : State) : Prop := ∀ a, t.readByte a = s.readByte a

/-- Every byte of memory outside the `len` bytes from address `a` on reads as before. -/
def SameMemoryOutside (a len : Nat) (s t : State) : Prop :=
  ∀ a', (a' < a ∨ a + len ≤ a') → t.readByte a' = s.readByte a'

/-- Every register but those listed is as before. -/
def SameRegsBut (written : List RegIdx) (s t : State) : Prop := ∀ k, k ∉ written → t.reg k = s.reg k

/-- Nothing has changed but the registers listed. -/
def ChangesOnlyRegs (written : List RegIdx) (s t : State) : Prop :=
  t = { s with v := t.v } ∧ SameRegsBut written s t ∧ SameMemory s t

/-- The registers an instruction may write (10_state.md R31, R32): its destination, and VF where it is a flag. -/
def destRegs : Instr → List RegIdx
  | .ldvxb x _ | .addvxb x _ | .ldvxy x _ | .or x _ | .and x _ | .xor x _ | .rnd x _ | .ldvxdt x | .ldvxk x => [x]
  | .addvxy x _ | .subvxy x _ | .shr x _ | .subn x _ | .shl x _ => [x, vf]
  | .drw _ _ _ => [vf]
  | .ldvxi x => (List.range (x.val + 1)).map regOfNat
  | .cls | .ret | .jp _ | .call _ | .sevxb _ _ | .snevxb _ _ | .sevxy _ _ | .snevxy _ _ | .ldi _ | .jr _ => []
  | .skp _ | .sknp _ | .lddtvx _ | .ldstvx _ | .addivx _ | .ldfvx _ | .ldbvx _ | .ldivx _ => []

/-- How many bytes from I on an instruction may store (20_memory.md R71). -/
def storeLen : Instr → Nat
  | .ldbvx _ => 3
  | .ldivx x => x.val + 1
  | .cls | .ret | .jp _ | .call _ | .sevxb _ _ | .snevxb _ _ | .sevxy _ _ | .ldvxb _ _ | .addvxb _ _ => 0
  | .ldvxy _ _ | .or _ _ | .and _ _ | .xor _ _ | .addvxy _ _ | .subvxy _ _ | .shr _ _ | .subn _ _ | .shl _ _ => 0
  | .snevxy _ _ | .ldi _ | .jr _ | .rnd _ _ | .drw _ _ _ | .skp _ | .sknp _ | .ldvxdt _ | .ldvxk _ => 0
  | .lddtvx _ | .ldstvx _ | .addivx _ | .ldfvx _ | .ldvxi _ => 0

/-- Whether sprite data lights the pixel (px, py) of a DRW of n rows at (x0, y0) from I on (44_display.md R220). -/
def SpriteSets (s : State) (x0 y0 : Byte) (n : Nat) (px : Fin 64) (py : Fin 32) : Prop :=
  ∃ r col, r < n ∧ col < 8 ∧ px.val = (x0.toNat + col) % 64 ∧ py.val = (y0.toNat + r) % 32 ∧
    ((s.readByte (s.i.toNat + r)).toNat >>> (7 - col)) % 2 = 1

/-- The fault an instruction raises in the state after its fetch, if any: the rows of 60_exceptions.md R261 that
belong to Execute. -/
def ownFault (ins : Instr) (s : State) : Option Fault :=
  match ins with
  | .call _ => if s.sp.val = 16 then some (.stackOverflow (s.pc - 2)) else none
  | .ret => if s.sp.val = 0 then some (.stackUnderflow (s.pc - 2)) else none
  | .drw _ _ n => if n > 0 ∧ s.i.toNat + n - 1 > 0xFFF then some (.memoryOutOfRange s.i n) else none
  | .ldbvx _ => if s.i.toNat + 2 > 0xFFF then some (.memoryOutOfRange s.i 3) else none
  | .ldivx x | .ldvxi x => if s.i.toNat + x.val > 0xFFF then some (.memoryOutOfRange s.i (x.val + 1)) else none
  | .skp x | .sknp x => if (s.reg x).toNat > 0xF then some (.keyIndexOutOfRange (s.reg x)) else none
  | .addivx x =>
    if s.i.toNat + (s.reg x).toNat > 0xFFFF then some (.indexOverflow (s.i.toNat + (s.reg x).toNat)) else none
  | .cls | .jp _ | .sevxb _ _ | .snevxb _ _ | .sevxy _ _ | .snevxy _ _ | .ldi _ | .jr _ | .rnd _ _ => none
  | .ldvxb _ _ | .addvxb _ _ | .ldvxy _ _ | .or _ _ | .and _ _ | .xor _ _ | .addvxy _ _ | .subvxy _ _ => none
  | .shr _ _ | .subn _ _ | .shl _ _ | .ldvxdt _ | .ldvxk _ | .lddtvx _ | .ldstvx _ | .ldfvx _ => none

/-- The condition of a skip, for a skip that has no fault of its own (41_flow.md R154 to R157, 45_timers_keys.md R242,
R243); none for the other instructions. -/
def skipCondition (ins : Instr) (s : State) : Option Bool :=
  match ins with
  | .sevxb x kk => some (decide (s.reg x = kk))
  | .snevxb x kk => some (decide (s.reg x ≠ kk))
  | .sevxy x y => some (decide (s.reg x = s.reg y))
  | .snevxy x y => some (decide (s.reg x ≠ s.reg y))
  | .skp x => s.keys[(s.reg x).toNat]?
  | .sknp x => (s.keys[(s.reg x).toNat]?).map (!·)
  | .cls | .ret | .jp _ | .call _ | .ldvxb _ _ | .addvxb _ _ | .ldvxy _ _ | .or _ _ | .and _ _ | .xor _ _ => none
  | .addvxy _ _ | .subvxy _ _ | .shr _ _ | .subn _ _ | .shl _ _ | .ldi _ | .jr _ | .rnd _ _ | .drw _ _ _ => none
  | .ldvxdt _ | .ldvxk _ | .lddtvx _ | .ldstvx _ | .addivx _ | .ldfvx _ | .ldbvx _ | .ldivx _ | .ldvxi _ => none

/-- The word of an instruction as a number: its encoding in an instruction's rule. -/
def EncodedAs (ins : Instr) (op : Nat) : Prop := (encode ins).toNat = op

end Sys2Proof.Machine
end

