-- ==== Sys2Proof/Certificates/Slice0/Obligations.lean ====
section
/-! DEFINITION. The statements for the provers. Each docstring names the rules of spec/ it formalises. -/

open Sys2Proof Sys2Proof.Machine

/-! ## Encoding -/

/-- Decoding an encoded well-formed instruction gives it back, as a word and at the head of any byte string
(30_encoding.md sections 1 to 3). -/
def Obligations.DecodeOfEncodeGivesTheInstruction : Prop :=
  ∀ ins : Instr, ins.wellFormed = true →
    decode (encode ins) = .ok ins ∧ ∀ rest : List Byte, decodeBytes (encodeBytes ins ++ rest) = .ok (ins, rest)

/-- Every word that decodes is the word of the instruction it decodes to, and that instruction is well-formed: no
bit of a word is dropped (30_encoding.md R108 keeps the unused y of SHR and SHL). -/
def Obligations.EncodeOfDecodedWordGivesTheWord : Prop :=
  ∀ (op : Word) (ins : Instr), decode op = .ok ins → encode ins = op ∧ ins.wellFormed = true

/-- 30_encoding.md R105: a word selects at most one row of the opcode map; the decoder gives the instruction of the
row it selects, and DecodeError with the word when it selects none. -/
def Obligations.WordDecodesByTheOneRowItSelects : Prop :=
  (∀ (op : Word) (r r' : Row), r ∈ opcodeTable → r' ∈ opcodeTable → op &&& r.mask = r.bits → op &&& r'.mask = r'.bits →
    r = r') ∧
  (∀ (op : Word) (r : Row), r ∈ opcodeTable → op &&& r.mask = r.bits →
    ∃ ins, decode op = .ok ins ∧ ins.mnemonic = r.mnemonic) ∧
  (∀ op : Word, (∀ r ∈ opcodeTable, op &&& r.mask ≠ r.bits) → decode op = .error (.decodeError op))

/-- 30_encoding.md R107: the illegal words, family by family. -/
def Obligations.IllegalWordsAreTheListedOnes : Prop :=
  ∀ op : Word, decode op = .error (.decodeError op) ↔
    (op.toNat / 4096 = 0x0 ∧ op.toNat ≠ 0x00E0 ∧ op.toNat ≠ 0x00EE) ∨
    (op.toNat / 4096 = 0x5 ∧ op.toNat % 16 ≠ 0) ∨
    (op.toNat / 4096 = 0x8 ∧ op.toNat % 16 ∈ [0x8, 0x9, 0xA, 0xB, 0xC, 0xD, 0xF]) ∨
    (op.toNat / 4096 = 0x9 ∧ op.toNat % 16 ≠ 0) ∨
    (op.toNat / 4096 = 0xE ∧ op.toNat % 256 ∉ [0x9E, 0xA1]) ∨
    (op.toNat / 4096 = 0xF ∧ op.toNat % 256 ∉ [0x07, 0x0A, 0x15, 0x18, 0x1E, 0x29, 0x33, 0x55, 0x65])

/-- Sanity: words written out from 30_encoding.md R102 and R105 decode to the instructions they stand for, and
words of R107 to none. -/
def Obligations.SampleWordsDecode : Prop :=
  decode 0b0000_0000_1110_1110 = .ok .ret ∧ decode 0b0001_0100_0101_0000 = .ok (.jp 0x450) ∧
  decode 0b0110_1010_1001_1100 = .ok (.ldvxb 10 0x9C) ∧ decode 0b1000_0010_0011_0101 = .ok (.subvxy 2 3) ∧
  decode 0b1101_0001_0010_0101 = .ok (.drw 1 2 5) ∧ decode 0b1110_0001_1010_0001 = .ok (.sknp 1) ∧
  decode 0b1111_0010_0101_0101 = .ok (.ldivx 2) ∧ decode 0x8008 = .error (.decodeError 0x8008)

/-! ## The cycle -/

/-- 20_memory.md R74: fetch reads the big-endian word at [PC, PC+1]. -/
def Obligations.FetchReadsTheBigEndianWord : Prop :=
  ∀ s : State, s.fetchWord.toNat = (s.readByte s.pc.toNat).toNat * 256 + (s.readByte (s.pc.toNat + 1)).toNat

/-- When the core is ready, has no terminal fault and PC is at most 0xFFE, and the word at PC decodes to ins, a step is
Execute of ins in the state with PC advanced by 2 (and nothing returned yet), and then the end of the cycle
(40_cycle.md R130 to R133). -/
def Obligations.StepRunsTheDecodedInstruction : Prop :=
  ∀ (s : State) (ins : Instr), s.fault = none → s.mode = .ready → s.pc.toNat ≤ 0xFFE → decode s.fetchWord = .ok ins →
    step s = endOf (exec ins { s with pc := s.pc + 2, returned := none })

/-- The timer advance (40_cycle.md R135) and what the model does beside it: after a completed Execute each timer falls by one if Tick() is true and it is above 0, and stays
otherwise, and nothing else of the core changes; that LastTick stays when Tick() is false and may change when it is
true is the model's choice, log 7, and so is the count of ticks, log 6; the same at the end of a cycle that has waited
for a key; after an Execute that has raised a fault or waits, and after a DecodeError or a fetch
fault, no timer advances. -/
def Obligations.TimersAdvanceAtTheEndOfACompletedCycle : Prop :=
  (∀ (s t : State) (ins : Instr), s.fault = none → s.mode = .ready → s.pc.toNat ≤ 0xFFE →
    decode s.fetchWord = .ok ins → exec ins { s with pc := s.pc + 2, returned := none } = .next t →
    (t.mode = .ready → t.returned = none → ∃ u, step s = .next u ∧
      u.dt.toNat = (if Config.tick t.tickDraws then t.dt.toNat - 1 else t.dt.toNat) ∧
      u.st.toNat = (if Config.tick t.tickDraws then t.st.toNat - 1 else t.st.toNat) ∧
      (Config.tick t.tickDraws = false → u.lastTick = t.lastTick) ∧
      u = { t with dt := u.dt, st := u.st, lastTick := u.lastTick, tickDraws := t.tickDraws + 1 }) ∧
    (t.mode ≠ .ready ∨ t.returned ≠ none → step s = .next t)) ∧
  (∀ (s : State) (x : RegIdx), s.fault = none → s.mode = .awaitingKey x → ∃ u, step s = .next u ∧
    (u.mode = .ready →
      u.dt.toNat = (if Config.tick s.tickDraws then s.dt.toNat - 1 else s.dt.toNat) ∧
      u.st.toNat = (if Config.tick s.tickDraws then s.st.toNat - 1 else s.st.toNat)) ∧
    (u.mode ≠ .ready → u.dt = s.dt ∧ u.st = s.st)) ∧
  (∀ s t : State, step s = .next t → t.returned ≠ none → t.dt = s.dt ∧ t.st = s.st)

/-- 40_cycle.md R138, 60_exceptions.md R262: an illegal word returns DecodeError with it; PC is its address plus 2,
nothing else changes, `Fault` is not set, the step call stops at it, and the next step runs the word after it. -/
def Obligations.IllegalWordReturnsDecodeError : Prop :=
  ∀ s : State, s.fault = none → s.mode = .ready → s.pc.toNat ≤ 0xFFE → (∀ ins, decode s.fetchWord ≠ .ok ins) →
    ∃ t, step s = .next t ∧ t = { s with pc := s.pc + 2, returned := some (.decodeError s.fetchWord) } ∧
      (∀ n, hostStep (n + 1) s = .err (.decodeError s.fetchWord) t) ∧
      (∀ ins, t.pc.toNat ≤ 0xFFE → decode t.fetchWord = .ok ins →
        step t = endOf (exec ins { t with pc := s.pc + 4, returned := none }))

/-- 60_exceptions.md R263: a cycle that starts with PC > 0xFFE raises FetchOutOfRange(PC), whatever memory holds; PC is
not advanced and nothing else changes but the terminal fault. -/
def Obligations.FetchAboveMemoryRaisesFetchOutOfRange : Prop :=
  ∀ s : State, s.fault = none → s.mode = .ready → s.pc.toNat > 0xFFE →
    step s = .next { s with returned := some (.fetchOutOfRange s.pc), fault := some (.fetchOutOfRange s.pc) }

/-- 60_exceptions.md R266: a terminal fault a step returns is set in `Fault`, and then every later step, and every later
step call of at least one cycle, returns it again, with the state as it is. -/
def Obligations.TerminalFaultIsReturnedByEveryLaterStep : Prop :=
  (∀ (s t : State) (f : Fault), step s = .next t → t.returned = some f → f.terminal = true → t.fault = some f) ∧
  (∀ (s : State) (f : Fault), s.fault = some f → step s = .fault f ∧ ∀ n, hostStep (n + 1) s = .err f s)

/-- 60_exceptions.md R271: the state after a fault is the state before the cycle, but for the fetch's PC advance, the
returned error and `Fault`. -/
def Obligations.FaultsArePrecise : Prop :=
  ∀ (s t : State) (f : Fault), step s = .next t → t.returned = some f →
    (f = .fetchOutOfRange s.pc ∧ t = { s with returned := some f, fault := some f }) ∨
    ((∀ p, f ≠ .fetchOutOfRange p) ∧
      t = { s with pc := s.pc + 2, returned := some f, fault := if f.code = 1 then none else some f })

/-- 60_exceptions.md R270: a cycle checks, in this order, the terminal fault, the fetch, the decoding, and the one check
of the instruction, and raises the first that fails, or none. -/
def Obligations.ChecksAreMadeInOrder : Prop :=
  ∀ s : State, s.mode = .ready →
    (∀ f, s.fault = some f → step s = .fault f) ∧
    (s.fault = none → ∃ t, step s = .next t ∧ t.returned =
      (if s.pc.toNat > 0xFFE then some (.fetchOutOfRange s.pc)
       else match decode s.fetchWord with
        | .error _ => some (.decodeError s.fetchWord)
        | .ok ins => ownFault ins { s with pc := s.pc + 2, returned := none }))

/-- 60_exceptions.md R264, R265, R268, R269: an instruction raises exactly the fault of its row of R261, with its info,
when the row's condition holds, and then changes nothing; otherwise it completes and raises none. -/
def Obligations.EachInstructionRaisesExactlyItsOwnFault : Prop :=
  ∀ (ins : Instr) (s : State),
    (∀ f, ownFault ins s = some f → exec ins s = .next { s with returned := some f, fault := some f }) ∧
    (ownFault ins s = none → ∃ t, exec ins s = .next t ∧ t.returned = s.returned ∧ t.fault = s.fault)

/-- Execute of every instruction answers a next state, in every state; a step answers one in every state without a
terminal fault, stops only in a terminal fault, and refuses nothing (40_cycle.md R139, 60_exceptions.md R261). That a
raised fault is a next state with the error in `returned` is the model's encoding, log 1 (a DESIGN CHOICE), and that a
cycle which waits is one that stays as it is, log 4 (a DESIGN CHOICE): R139 speaks of next-state, fault and stuck. -/
def Obligations.NothingIsRefused : Prop :=
  (∀ (ins : Instr) (s : State), ∃ t, exec ins s = .next t) ∧
  (∀ s : State, s.fault = none → ∃ t, step s = .next t) ∧
  (∀ (s : State) (f : Fault), step s = .fault f ↔ s.fault = some f) ∧
  (∀ (s : State) (r : Refusal), step s ≠ .refused r)

/-- 40_cycle.md R134: while a cycle waits for a key a step fetches and executes nothing; without an answer it changes
nothing, with one it stores the byte, is Ready again and ends the cycle with the timer advance; and no other
host operation lands. -/
def Obligations.WaitForKeySuspendsTheCycle : Prop :=
  ∀ (s : State) (x : RegIdx), s.fault = none → s.returned = none → s.mode = .awaitingKey x →
    ((s.keyHandler = none ∨ s.keyHandler = some []) → step s = .next s) ∧
    (∀ b rest, s.keyHandler = some (b :: rest) → ∃ u, step s = .next u ∧
      u.reg x = b ∧ SameRegsBut [x] s u ∧
      u.dt.toNat = (if Config.tick s.tickDraws then s.dt.toNat - 1 else s.dt.toNat) ∧
      u.st.toNat = (if Config.tick s.tickDraws then s.st.toNat - 1 else s.st.toNat) ∧
      u = { s with v := u.v, mode := .ready, keyHandler := some rest, dt := u.dt, st := u.st,
                   lastTick := u.lastTick, tickDraws := s.tickDraws + 1 }) ∧
    (∀ bytes, loadMemory bytes s = .error .stepInProgress) ∧
    (∀ k down, setKey k down s = .error .stepInProgress) ∧
    (∀ l, setKeyWaitHandler l s = .error .stepInProgress) ∧ setDisplayUpdateHandler s = .error .stepInProgress

/-! ## Control transfer -/

/-- 41_flow.md R152, R158: JP goes to nnn (plus 2 under the other value of JUMP_LANDING_OFFSET), JR to nnn plus V0, exact
and not reduced; nothing else changes. -/
def Obligations.JumpsGoToTheirTargets : Prop :=
  ∀ (nnn : BitVec 12) (s : State),
    EncodedAs (.jp nnn) (0x1000 + nnn.toNat) ∧ EncodedAs (.jr nnn) (0xB000 + nnn.toNat) ∧
    (∃ t, exec (.jp nnn) s = .next t ∧ t.pc.toNat = nnn.toNat ∧ t = { s with pc := t.pc } ∧ SameMemory s t) ∧
    (∀ p : Params, p.jumpLandingOffset = .two →
      ∃ t, execWith p (.jp nnn) s = .next t ∧ t.pc.toNat = nnn.toNat + 2 ∧ t = { s with pc := t.pc }) ∧
    (∃ t, exec (.jr nnn) s = .next t ∧ t.pc.toNat = nnn.toNat + (s.reg 0).toNat ∧ t = { s with pc := t.pc } ∧
      SameMemory s t)

/-- 41_flow.md R153: CALL pushes the advanced PC and goes to nnn (plus 2 under the other value of JUMP_LANDING_OFFSET);
with SP = 16 it raises StackOverflow with its address and changes nothing. -/
def Obligations.CallPushesTheReturnAddress : Prop :=
  ∀ (nnn : BitVec 12) (s : State),
    EncodedAs (.call nnn) (0x2000 + nnn.toNat) ∧
    (∀ h : s.sp.val < 16, ∃ t, exec (.call nnn) s = .next t ∧
      t.stack[s.sp.val] = s.pc ∧ (∀ k : Fin 16, k.val ≠ s.sp.val → t.stack[k] = s.stack[k]) ∧
      t.sp.val = s.sp.val + 1 ∧ t.pc.toNat = nnn.toNat ∧
      t = { s with stack := t.stack, sp := t.sp, pc := t.pc } ∧ SameMemory s t) ∧
    (∀ p : Params, p.jumpLandingOffset = .two → ∀ h : s.sp.val < 16, ∃ t, execWith p (.call nnn) s = .next t ∧
      t.stack[s.sp.val] = s.pc ∧ t.pc.toNat = nnn.toNat + 2) ∧
    (s.sp.val = 16 → exec (.call nnn) s = .next
      { s with returned := some (.stackOverflow (s.pc - 2)), fault := some (.stackOverflow (s.pc - 2)) })

/-- 41_flow.md R151: RET takes SP down and PC from the slot, which keeps its value; with SP = 0 it raises StackUnderflow
with its address and changes nothing. -/
def Obligations.RetPopsTheReturnAddress : Prop :=
  ∀ s : State,
    EncodedAs .ret 0x00EE ∧
    (∀ h : 0 < s.sp.val, ∃ t, exec .ret s = .next t ∧ t.sp.val + 1 = s.sp.val ∧
      t.pc = s.stack[s.sp.val - 1]'(by omega) ∧ t = { s with sp := t.sp, pc := t.pc } ∧ SameMemory s t) ∧
    (s.sp.val = 0 → exec .ret s = .next
      { s with returned := some (.stackUnderflow (s.pc - 2)), fault := some (.stackUnderflow (s.pc - 2)) })

/-- A RET in any state whose stack and SP are as CALL left them comes back to the word after the CALL, with SP as it was
before the CALL (41_flow.md R151, R153). -/
def Obligations.RetAfterCallComesBack : Prop :=
  ∀ (nnn : BitVec 12) (s t u : State), s.sp.val < 16 → exec (.call nnn) s = .next t → u.stack = t.stack → u.sp = t.sp →
    ∃ w, exec .ret u = .next w ∧ w.pc = s.pc ∧ w.sp = s.sp ∧ w.stack = t.stack

/-- 41_flow.md R154, R155, R156, R157: each skip adds 2 to the advanced PC exactly when its condition holds; nothing else
changes. -/
def Obligations.SkipsTestTheirCondition : Prop :=
  ∀ (x y : RegIdx) (kk : Byte) (s : State),
    (EncodedAs (.sevxb x kk) (0x3000 + x.val * 256 + kk.toNat) ∧
      EncodedAs (.snevxb x kk) (0x4000 + x.val * 256 + kk.toNat) ∧
      EncodedAs (.sevxy x y) (0x5000 + x.val * 256 + y.val * 16) ∧
      EncodedAs (.snevxy x y) (0x9000 + x.val * 256 + y.val * 16)) ∧
    exec (.sevxb x kk) s = .next { s with pc := if (s.reg x).toNat = kk.toNat then s.pc + 2 else s.pc } ∧
    exec (.snevxb x kk) s = .next { s with pc := if (s.reg x).toNat = kk.toNat then s.pc else s.pc + 2 } ∧
    exec (.sevxy x y) s = .next { s with pc := if (s.reg x).toNat = (s.reg y).toNat then s.pc + 2 else s.pc } ∧
    exec (.snevxy x y) s = .next { s with pc := if (s.reg x).toNat = (s.reg y).toNat then s.pc else s.pc + 2 }

/-- 41_flow.md R150: a step on a skip leaves PC at the instruction's address + 4 when its condition holds and + 2
otherwise; the skipped word plays no part, and the step returns no error. -/
def Obligations.SkipStepMovesPcByFourOrTwo : Prop :=
  ∀ (s : State) (ins : Instr) (c : Bool), s.fault = none → s.mode = .ready → s.pc.toNat ≤ 0xFFE →
    decode s.fetchWord = .ok ins → skipCondition ins s = some c →
    ∃ t, step s = .next t ∧ t.pc.toNat = s.pc.toNat + (if c then 4 else 2) ∧ t.returned = none

/-- 45_timers_keys.md R241, R242, R243: SKP skips when key V[x] is down, SKNP when it is up; an index above 0xF raises
KeyIndexOutOfRange with it and changes nothing. -/
def Obligations.KeySkipsReadTheKeypad : Prop :=
  ∀ (x : RegIdx) (s : State),
    EncodedAs (.skp x) (0xE09E + x.val * 256) ∧ EncodedAs (.sknp x) (0xE0A1 + x.val * 256) ∧
    (∀ h : (s.reg x).toNat < 16,
      exec (.skp x) s = .next { s with pc := if s.keys[(s.reg x).toNat] = true then s.pc + 2 else s.pc } ∧
      exec (.sknp x) s = .next { s with pc := if s.keys[(s.reg x).toNat] = true then s.pc else s.pc + 2 }) ∧
    ((s.reg x).toNat > 0xF →
      exec (.skp x) s = .next
        { s with returned := some (.keyIndexOutOfRange (s.reg x)), fault := some (.keyIndexOutOfRange (s.reg x)) } ∧
      exec (.sknp x) s = .next
        { s with returned := some (.keyIndexOutOfRange (s.reg x)), fault := some (.keyIndexOutOfRange (s.reg x)) })

/-! ## Loads and ALU -/

/-- 42_alu.md R173, R174, R175: load immediate, add immediate modulo 256 with no carry, copy; no other register changes,
VF only when it is the destination. -/
def Obligations.LoadsAndAddImmediate : Prop :=
  ∀ (x y : RegIdx) (kk : Byte) (s : State),
    (EncodedAs (.ldvxb x kk) (0x6000 + x.val * 256 + kk.toNat) ∧
      EncodedAs (.addvxb x kk) (0x7000 + x.val * 256 + kk.toNat) ∧
      EncodedAs (.ldvxy x y) (0x8000 + x.val * 256 + y.val * 16)) ∧
    (∃ t, exec (.ldvxb x kk) s = .next t ∧ t.reg x = kk ∧ ChangesOnlyRegs [x] s t) ∧
    (∃ t, exec (.addvxb x kk) s = .next t ∧ (t.reg x).toNat = ((s.reg x).toNat + kk.toNat) % 256 ∧
      ChangesOnlyRegs [x] s t) ∧
    (∃ t, exec (.ldvxy x y) s = .next t ∧ t.reg x = s.reg y ∧ ChangesOnlyRegs [x] s t)

/-- 42_alu.md R176, R177, R178: the bitwise operations, bit by bit; VF changes only when it is the destination. -/
def Obligations.LogicOperationsAreBitwise : Prop :=
  ∀ (x y : RegIdx) (s : State),
    (EncodedAs (.or x y) (0x8001 + x.val * 256 + y.val * 16) ∧ EncodedAs (.and x y) (0x8002 + x.val * 256 + y.val * 16) ∧
      EncodedAs (.xor x y) (0x8003 + x.val * 256 + y.val * 16)) ∧
    (∃ t, exec (.or x y) s = .next t ∧ ChangesOnlyRegs [x] s t ∧
      ∀ k, (t.reg x).getLsbD k = ((s.reg x).getLsbD k || (s.reg y).getLsbD k)) ∧
    (∃ t, exec (.and x y) s = .next t ∧ ChangesOnlyRegs [x] s t ∧
      ∀ k, (t.reg x).getLsbD k = ((s.reg x).getLsbD k && (s.reg y).getLsbD k)) ∧
    (∃ t, exec (.xor x y) s = .next t ∧ ChangesOnlyRegs [x] s t ∧
      ∀ k, (t.reg x).getLsbD k = ((s.reg x).getLsbD k ^^ (s.reg y).getLsbD k))

/-- 42_alu.md R179: the sum modulo 256 in V[x], the carry in VF; when x = 0xF, VF ends as the sum. -/
def Obligations.AddSetsTheCarry : Prop :=
  ∀ (x y : RegIdx) (s : State),
    EncodedAs (.addvxy x y) (0x8004 + x.val * 256 + y.val * 16) ∧
    ∃ t, exec (.addvxy x y) s = .next t ∧
      (t.reg x).toNat = ((s.reg x).toNat + (s.reg y).toNat) % 256 ∧
      (x ≠ vf → (t.reg vf).toNat = if (s.reg x).toNat + (s.reg y).toNat > 0xFF then 1 else 0) ∧
      ChangesOnlyRegs [x, vf] s t

/-- 42_alu.md R180, R182: the difference modulo 256 in V[x], VF 1 exactly when the minuend is strictly greater; when
x = 0xF, VF ends as the difference. -/
def Obligations.SubtractionsSetNotBorrow : Prop :=
  ∀ (x y : RegIdx) (s : State),
    EncodedAs (.subvxy x y) (0x8005 + x.val * 256 + y.val * 16) ∧
    EncodedAs (.subn x y) (0x8007 + x.val * 256 + y.val * 16) ∧
    (∃ t, exec (.subvxy x y) s = .next t ∧
      (t.reg x).toNat = ((s.reg x).toNat + 256 - (s.reg y).toNat) % 256 ∧
      (x ≠ vf → (t.reg vf).toNat = if (s.reg x).toNat > (s.reg y).toNat then 1 else 0) ∧
      ChangesOnlyRegs [x, vf] s t) ∧
    (∃ t, exec (.subn x y) s = .next t ∧
      (t.reg x).toNat = ((s.reg y).toNat + 256 - (s.reg x).toNat) % 256 ∧
      (x ≠ vf → (t.reg vf).toNat = if (s.reg y).toNat > (s.reg x).toNat then 1 else 0) ∧
      ChangesOnlyRegs [x, vf] s t)

/-- 42_alu.md R181, R183: one-bit shifts of V[x], the bit shifted out in VF, y ignored; when x = 0xF, VF ends as the
result; a model that takes SHIFT_SOURCE = VY reads V[y]. -/
def Obligations.ShiftsSetTheBitShiftedOut : Prop :=
  ∀ (x y : RegIdx) (s : State),
    EncodedAs (.shr x y) (0x8006 + x.val * 256 + y.val * 16) ∧ EncodedAs (.shl x y) (0x800E + x.val * 256 + y.val * 16) ∧
    (∃ t, exec (.shr x y) s = .next t ∧ (t.reg x).toNat = (s.reg x).toNat / 2 ∧
      (x ≠ vf → (t.reg vf).toNat = (s.reg x).toNat % 2) ∧ ChangesOnlyRegs [x, vf] s t) ∧
    (∃ t, exec (.shl x y) s = .next t ∧ (t.reg x).toNat = (s.reg x).toNat * 2 % 256 ∧
      (x ≠ vf → (t.reg vf).toNat = (s.reg x).toNat / 128) ∧ ChangesOnlyRegs [x, vf] s t) ∧
    (∃ t, execWith { Config.params with shiftSource := .vy } (.shr x y) s = .next t ∧
      (t.reg x).toNat = (s.reg y).toNat / 2 ∧ (x ≠ vf → (t.reg vf).toNat = (s.reg y).toNat % 2)) ∧
    (∃ t, execWith { Config.params with shiftSource := .vy } (.shl x y) s = .next t ∧
      (t.reg x).toNat = (s.reg y).toNat * 2 % 256 ∧ (x ≠ vf → (t.reg vf).toNat = (s.reg y).toNat / 128))

/-- 42_alu.md R184: V[x] gets a free byte masked by kk, so it has no bit that kk lacks; the next RND draws another byte;
VF changes only when it is the destination. Holds for every value of the free byte (log 5). -/
def Obligations.RndStoresAMaskedFreeByte : Prop :=
  ∀ (x : RegIdx) (kk : Byte) (s : State),
    EncodedAs (.rnd x kk) (0xC000 + x.val * 256 + kk.toNat) ∧
    ∃ t, exec (.rnd x kk) s = .next t ∧ t.reg x = (Config.randomByte s.randomDraws &&& kk) ∧
      t.reg x &&& ~~~kk = 0 ∧ t = { s with v := t.v, randomDraws := s.randomDraws + 1 } ∧
      SameRegsBut [x] s t ∧ SameMemory s t

/-- The other values of FLAG_ORDER, LOGIC_VF_RESET, BULK_I_INCREMENT and OPCODE_0NNN_POLICY (00_scope.md R9;
92_eei_decisions.md D1, D2, D3, D4, D6), each with every value of the other parameters. Under result_then_flag VF ends
with the flag and any other destination with the result. The model's choices: the flag order of the VF reset, log 12;
that a nop completes its cycle, log 13; by how much I rises, log 21. -/
def Obligations.OtherParameterValuesDoAsTheirDecisionsSay : Prop :=
  (∀ (p : Params) (x y : RegIdx) (s : State) (a b : Nat), p.flagOrder = .resultThenFlag →
    a = (s.reg x).toNat → b = (s.reg y).toNat →
    (∀ ins r f, (ins, r, f) ∈ [
        (Instr.addvxy x y, (a + b) % 256, if a + b > 0xFF then 1 else 0),
        (.subvxy x y, (a + 256 - b) % 256, if a > b then 1 else 0),
        (.subn x y, (b + 256 - a) % 256, if b > a then 1 else 0),
        (.shr x y, (if p.shiftSource = .vx then a else b) / 2, (if p.shiftSource = .vx then a else b) % 2),
        (.shl x y, (if p.shiftSource = .vx then a else b) * 2 % 256, (if p.shiftSource = .vx then a else b) / 128)] →
      ∃ t, execWith p ins s = .next t ∧ (t.reg vf).toNat = f ∧ (x ≠ vf → (t.reg x).toNat = r) ∧
        ChangesOnlyRegs [x, vf] s t)) ∧
  (∀ (p : Params) (x y : RegIdx) (s : State), p.logicVfReset = true →
    (∀ ins r, (ins, r) ∈ [(Instr.or x y, s.reg x ||| s.reg y), (.and x y, s.reg x &&& s.reg y),
        (.xor x y, s.reg x ^^^ s.reg y)] →
      ∃ t, execWith p ins s = .next t ∧ (x ≠ vf → t.reg vf = 0 ∧ t.reg x = r) ∧
        (x = vf → t.reg vf = if p.flagOrder = .flagThenResult then r else 0) ∧ ChangesOnlyRegs [x, vf] s t)) ∧
  (∀ (p : Params) (x : RegIdx) (s : State), p.bulkIIncrement = true →
    (s.i.toNat + x.val ≤ 0xFFF → Memory.wf s.mem = true → ∃ t, execWith p (.ldivx x) s = .next t ∧
      t.i.toNat = s.i.toNat + x.val + 1 ∧
      (∀ k : RegIdx, k.val ≤ x.val → t.readByte (s.i.toNat + k.val) = s.reg k) ∧
      SameMemoryOutside s.i.toNat (x.val + 1) s t ∧ t = { s with mem := t.mem, i := t.i }) ∧
    (s.i.toNat + x.val ≤ 0xFFF → ∃ t, execWith p (.ldvxi x) s = .next t ∧ t.i.toNat = s.i.toNat + x.val + 1 ∧
      (∀ k : RegIdx, k.val ≤ x.val → t.reg k = s.readByte (s.i.toNat + k.val)) ∧
      (∀ k : RegIdx, x.val < k.val → t.reg k = s.reg k) ∧ SameMemory s t ∧ t = { s with v := t.v, i := t.i }) ∧
    (s.i.toNat + x.val > 0xFFF → ∀ ins, ins ∈ [Instr.ldivx x, .ldvxi x] → execWith p ins s = .next
      { s with returned := some (.memoryOutOfRange s.i (x.val + 1)),
               fault := some (.memoryOutOfRange s.i (x.val + 1)) })) ∧
  (∀ (p : Params) (s : State), p.opcode0nnnPolicy = .nop → s.fault = none → s.mode = .ready → s.pc.toNat ≤ 0xFFE →
    s.fetchWord.toNat < 0x1000 → s.fetchWord ≠ 0x00E0 → s.fetchWord ≠ 0x00EE →
    stepWith p s = endOf (.next { s with pc := s.pc + 2, returned := none }))

/-- Under the spec's values of the parameters the parametric machine is the machine (00_scope.md R9). -/
def Obligations.DefaultParametersGiveTheMachine : Prop :=
  (∀ (ins : Instr) (s : State), execWith Config.params ins s = exec ins s) ∧
  (∀ s : State, stepWith Config.params s = step s) ∧
  (∀ (n : Nat) (s : State), hostStepWith Config.params n s = hostStep n s) ∧
  newCoreWith Config.params = State.reset

/-! ## Index register and memory -/

/-- 43_index_memory.md R201, R202, R203: LDI, ADDIVX (exact, IndexOverflow with the sum above 0xFFFF, nothing changed
then) and LDFVX (unmasked) write I; nothing else changes. -/
def Obligations.IndexInstructionsWriteI : Prop :=
  ∀ (nnn : BitVec 12) (x : RegIdx) (s : State),
    (EncodedAs (.ldi nnn) (0xA000 + nnn.toNat) ∧ EncodedAs (.addivx x) (0xF01E + x.val * 256) ∧
      EncodedAs (.ldfvx x) (0xF029 + x.val * 256)) ∧
    (∃ t, exec (.ldi nnn) s = .next t ∧ t.i.toNat = nnn.toNat ∧ t = { s with i := t.i } ∧ SameMemory s t) ∧
    (∃ t, exec (.ldfvx x) s = .next t ∧ t.i.toNat = 5 * (s.reg x).toNat ∧ t = { s with i := t.i } ∧ SameMemory s t) ∧
    (s.i.toNat + (s.reg x).toNat ≤ 0xFFFF → ∃ t, exec (.addivx x) s = .next t ∧
      t.i.toNat = s.i.toNat + (s.reg x).toNat ∧ t = { s with i := t.i } ∧ SameMemory s t) ∧
    (s.i.toNat + (s.reg x).toNat > 0xFFFF → exec (.addivx x) s = .next
      { s with returned := some (.indexOverflow (s.i.toNat + (s.reg x).toNat)),
               fault := some (.indexOverflow (s.i.toNat + (s.reg x).toNat)) })

/-- 43_index_memory.md R204: the three decimal digits of V[x] at I, I + 1, I + 2, hundreds first; every other byte as
before; out of range, MemoryOutOfRange(I, 3) and nothing changed. The memory is in its canonical form, which every
step keeps. -/
def Obligations.BcdStoresTheDecimalDigits : Prop :=
  ∀ (x : RegIdx) (s : State),
    EncodedAs (.ldbvx x) (0xF033 + x.val * 256) ∧
    (Memory.wf s.mem = true → s.i.toNat + 2 ≤ 0xFFF → ∃ t, exec (.ldbvx x) s = .next t ∧
      (t.readByte s.i.toNat).toNat = (s.reg x).toNat / 100 ∧
      (t.readByte (s.i.toNat + 1)).toNat = (s.reg x).toNat / 10 % 10 ∧
      (t.readByte (s.i.toNat + 2)).toNat = (s.reg x).toNat % 10 ∧
      SameMemoryOutside s.i.toNat 3 s t ∧ t = { s with mem := t.mem }) ∧
    (s.i.toNat + 2 > 0xFFF → exec (.ldbvx x) s = .next
      { s with returned := some (.memoryOutOfRange s.i 3), fault := some (.memoryOutOfRange s.i 3) })

/-- 43_index_memory.md R205: V0 to V[x] inclusive at I, I + 1, ...; every other byte and I as before; out of range,
MemoryOutOfRange(I, x + 1) and nothing changed. -/
def Obligations.BulkStoreWritesTheRegisters : Prop :=
  ∀ (x : RegIdx) (s : State),
    EncodedAs (.ldivx x) (0xF055 + x.val * 256) ∧
    (Memory.wf s.mem = true → s.i.toNat + x.val ≤ 0xFFF → ∃ t, exec (.ldivx x) s = .next t ∧
      (∀ k : RegIdx, k.val ≤ x.val → t.readByte (s.i.toNat + k.val) = s.reg k) ∧
      SameMemoryOutside s.i.toNat (x.val + 1) s t ∧ t = { s with mem := t.mem }) ∧
    (s.i.toNat + x.val > 0xFFF → exec (.ldivx x) s = .next
      { s with returned := some (.memoryOutOfRange s.i (x.val + 1)), fault := some (.memoryOutOfRange s.i (x.val + 1)) })

/-- 43_index_memory.md R206: V0 to V[x] inclusive from I, I + 1, ...; the registers above x, memory and I as before; out
of range, MemoryOutOfRange(I, x + 1) and nothing changed. -/
def Obligations.BulkLoadReadsTheRegisters : Prop :=
  ∀ (x : RegIdx) (s : State),
    EncodedAs (.ldvxi x) (0xF065 + x.val * 256) ∧
    (s.i.toNat + x.val ≤ 0xFFF → ∃ t, exec (.ldvxi x) s = .next t ∧
      (∀ k : RegIdx, k.val ≤ x.val → t.reg k = s.readByte (s.i.toNat + k.val)) ∧
      (∀ k : RegIdx, x.val < k.val → t.reg k = s.reg k) ∧ SameMemory s t ∧ t = { s with v := t.v }) ∧
    (s.i.toNat + x.val > 0xFFF → exec (.ldvxi x) s = .next
      { s with returned := some (.memoryOutOfRange s.i (x.val + 1)), fault := some (.memoryOutOfRange s.i (x.val + 1)) })

/-- A bulk load with the same x and I, in any state with the memory a bulk store left, brings back the registers stored
(43_index_memory.md R205, R206). -/
def Obligations.BulkLoadAfterBulkStoreRestores : Prop :=
  ∀ (x : RegIdx) (s t u : State), Memory.wf s.mem = true → s.i.toNat + x.val ≤ 0xFFF →
    exec (.ldivx x) s = .next t → u.mem = t.mem → u.i = s.i →
    ∃ w, exec (.ldvxi x) u = .next w ∧ ∀ k : RegIdx, k.val ≤ x.val → w.reg k = s.reg k

/-- 20_memory.md R83: a fetch sees the bytes a bulk store wrote: with PC inside the stored bytes, the next word fetched is
made of the registers stored there. -/
def Obligations.FetchSeesStoredBytes : Prop :=
  ∀ (x k : RegIdx) (s t : State), Memory.wf s.mem = true → s.i.toNat + x.val ≤ 0xFFF → (h : k.val < x.val) →
    exec (.ldivx x) s = .next t → t.pc.toNat = s.i.toNat + k.val →
    t.fetchWord.toNat = (s.reg k).toNat * 256 + (s.reg ⟨k.val + 1, by omega⟩).toNat

/-- Memories in canonical form that read the same at every address are the same list, and every write keeps the form
(the model's representation, log 14; 20_memory.md R70, R80). -/
def Obligations.CanonicalMemoriesAreEqualWhenTheyReadEqual : Prop :=
  (∀ m m' : Memory, Memory.wf m = true → Memory.wf m' = true →
    (∀ a, a < memSize → Memory.read a m = Memory.read a m') → m = m') ∧
  (∀ (a a' : Nat) (b : Byte) (m : Memory), Memory.wf m = true → a < memSize →
    Memory.wf (Memory.write a b m) = true ∧
      Memory.read a' (Memory.write a b m) = if a' = a then b else Memory.read a' m)

/-! ## Display -/

/-- 44_display.md R221: CLS turns every pixel off and notifies once, and changes nothing else. -/
def Obligations.ClsClearsTheDisplay : Prop :=
  ∀ s : State, EncodedAs .cls 0x00E0 ∧ ∃ t, exec .cls s = .next t ∧ (∀ px py, t.pix.get px py = false) ∧
    t.notifications = s.notifications + 1 ∧
    t = { s with pix := t.pix, notifications := t.notifications, handlerCalls := t.handlerCalls } ∧ SameMemory s t

/-- 44_display.md R222, with the geometry of R220: DRW flips exactly the pixels its sprite's set bits land on, each
wrapped on its own; VF is 1 if a pixel went from on to off and 0 if none did; one notification; nothing else changes;
out of range, MemoryOutOfRange(I, n) and nothing changed. -/
def Obligations.DrwXorsTheSprite : Prop :=
  ∀ (x y : RegIdx) (n : Nat) (s : State), n < 16 →
    EncodedAs (.drw x y n) (0xD000 + x.val * 256 + y.val * 16 + n) ∧
    ((n = 0 ∨ s.i.toNat + n - 1 ≤ 0xFFF) → ∃ t, exec (.drw x y n) s = .next t ∧
      (∀ px py, t.pix.get px py ≠ s.pix.get px py ↔ SpriteSets s (s.reg x) (s.reg y) n px py) ∧
      (t.reg vf = 0 ∨ t.reg vf = 1) ∧
      (t.reg vf = 1 ↔ ∃ px py, s.pix.get px py = true ∧ t.pix.get px py = false) ∧
      t.notifications = s.notifications + 1 ∧
      t = { s with pix := t.pix, v := t.v, notifications := t.notifications, handlerCalls := t.handlerCalls } ∧
      SameRegsBut [vf] s t ∧ SameMemory s t) ∧
    (n > 0 → s.i.toNat + n - 1 > 0xFFF → exec (.drw x y n) s = .next
      { s with returned := some (.memoryOutOfRange s.i n), fault := some (.memoryOutOfRange s.i n) })

/-- Two equal draws one after the other erase the sprite, and on a clear display the first sets no collision and the
second sets one exactly when the sprite has a set bit (44_display.md R222, its example). x and y are not VF, which the
first draw writes. -/
def Obligations.DrawingTwiceErasesTheSprite : Prop :=
  ∀ (x y : RegIdx) (n : Nat) (s : State), n < 16 → x ≠ vf → y ≠ vf → (n = 0 ∨ s.i.toNat + n - 1 ≤ 0xFFF) →
    ∃ t u, exec (.drw x y n) s = .next t ∧ exec (.drw x y n) t = .next u ∧ u.pix = s.pix ∧
      ((∀ px py, s.pix.get px py = false) → t.reg vf = 0 ∧
        (u.reg vf = 1 ↔ ∃ px py, SpriteSets s (s.reg x) (s.reg y) n px py))

/-- 44_display.md R223: each CLS and each DRW that does not fault notifies exactly once, which reaches the handler if one
is installed and is dropped otherwise; no other instruction notifies. -/
def Obligations.OnlyDisplayInstructionsNotifyAndOnce : Prop :=
  ∀ (ins : Instr) (s t : State), exec ins s = .next t →
    ((ins = .cls ∨ (∃ x y n, ins = .drw x y n) ∧ ownFault ins s = none) →
      t.notifications = s.notifications + 1 ∧ t.handlerCalls = s.handlerCalls + (if s.displayHandler then 1 else 0)) ∧
    (¬ (ins = .cls ∨ (∃ x y n, ins = .drw x y n) ∧ ownFault ins s = none) →
      t.notifications = s.notifications ∧ t.handlerCalls = s.handlerCalls)

/-! ## Keypad and timers -/

/-- 45_timers_keys.md R244, R246, R247: the moves between V[x] and the timers; Execute changes nothing else. A step
that sets a timer writes before the cycle's timer advance, and one that reads DT reads before it. -/
def Obligations.TimerMoves : Prop :=
  ∀ (x : RegIdx) (s : State),
    (EncodedAs (.ldvxdt x) (0xF007 + x.val * 256) ∧ EncodedAs (.lddtvx x) (0xF015 + x.val * 256) ∧
      EncodedAs (.ldstvx x) (0xF018 + x.val * 256)) ∧
    (∃ t, exec (.ldvxdt x) s = .next t ∧ t.reg x = s.dt ∧ ChangesOnlyRegs [x] s t) ∧
    (∃ t, exec (.lddtvx x) s = .next t ∧ t.dt = s.reg x ∧ t = { s with dt := t.dt } ∧ SameMemory s t) ∧
    (∃ t, exec (.ldstvx x) s = .next t ∧ t.st = s.reg x ∧ t = { s with st := t.st } ∧ SameMemory s t) ∧
    (s.fault = none → s.mode = .ready → s.pc.toNat ≤ 0xFFE →
      (decode s.fetchWord = .ok (.lddtvx x) → ∃ t, step s = .next t ∧
        t.dt.toNat = (if Config.tick s.tickDraws then (s.reg x).toNat - 1 else (s.reg x).toNat)) ∧
      (decode s.fetchWord = .ok (.ldstvx x) → ∃ t, step s = .next t ∧
        t.st.toNat = (if Config.tick s.tickDraws then (s.reg x).toNat - 1 else (s.reg x).toNat)) ∧
      (decode s.fetchWord = .ok (.ldvxdt x) → ∃ t, step s = .next t ∧ t.reg x = s.dt))

/-- 45_timers_keys.md R245: LDVXK stores the byte the handler returns verbatim; without one it waits, in AwaitingKey(x),
with nothing else changed. -/
def Obligations.KeyWaitStoresTheAnswer : Prop :=
  ∀ (x : RegIdx) (s : State),
    EncodedAs (.ldvxk x) (0xF00A + x.val * 256) ∧
    (∀ b rest, s.keyHandler = some (b :: rest) → ∃ t, exec (.ldvxk x) s = .next t ∧ t.reg x = b ∧ t.mode = .ready ∧
      t = { s with v := t.v, mode := .ready, keyHandler := some rest } ∧ SameRegsBut [x] s t ∧ SameMemory s t) ∧
    ((s.keyHandler = none ∨ s.keyHandler = some []) →
      exec (.ldvxk x) s = .next { s with mode := .awaitingKey x })

/-! ## Whole-machine frames -/

/-- Execute leaves every register alone but those 10_state.md R31 and R32 name for the instruction. -/
def Obligations.OnlyDestinationRegistersChange : Prop :=
  ∀ (ins : Instr) (s t : State), exec ins s = .next t → SameRegsBut (destRegs ins) s t

/-- Execute leaves every byte of memory alone but those LDBVX and LDIVX store, from I on (20_memory.md R71). -/
def Obligations.OnlyTheStoredBytesChange : Prop :=
  ∀ (ins : Instr) (s t : State), exec ins s = .next t → SameMemoryOutside (s.dataAddr 0) (storeLen ins) s t

/-- Who writes what is not a register or memory: the writers that 10_state.md R34, R35, R38 to R43 and R46 name
(10_state.md sections 3, 4 and 6). -/
def Obligations.SpecialStateHasOnlyItsWriters : Prop :=
  ∀ (ins : Instr) (s t : State), exec ins s = .next t →
    (t.i ≠ s.i → (∃ nnn, ins = .ldi nnn) ∨ (∃ x, ins = .addivx x) ∨ ∃ x, ins = .ldfvx x) ∧
    (t.pc ≠ s.pc → ins = .ret ∨ (∃ nnn, ins = .jp nnn) ∨ (∃ nnn, ins = .call nnn) ∨ (∃ nnn, ins = .jr nnn) ∨
      t.pc = s.pc + 2 ∧ ((∃ x kk, ins = .sevxb x kk) ∨ (∃ x kk, ins = .snevxb x kk) ∨ (∃ x y, ins = .sevxy x y) ∨
        (∃ x y, ins = .snevxy x y) ∨ (∃ x, ins = .skp x) ∨ ∃ x, ins = .sknp x)) ∧
    (t.stack ≠ s.stack → ∃ nnn, ins = .call nnn) ∧
    (t.sp ≠ s.sp → ins = .ret ∨ ∃ nnn, ins = .call nnn) ∧
    (t.dt ≠ s.dt → ∃ x, ins = .lddtvx x) ∧ (t.st ≠ s.st → ∃ x, ins = .ldstvx x) ∧ t.keys = s.keys ∧
    (t.pix ≠ s.pix → ins = .cls ∨ ∃ x y n, ins = .drw x y n) ∧
    (t.mode ≠ s.mode → ∃ x, ins = .ldvxk x) ∧ (t.keyHandler ≠ s.keyHandler → ∃ x, ins = .ldvxk x) ∧
    t.displayHandler = s.displayHandler ∧ t.lastTick = s.lastTick ∧ t.tickDraws = s.tickDraws ∧
    (t.randomDraws ≠ s.randomDraws → ∃ x kk, ins = .rnd x kk)

/-! ## Reset, invariants, reachable states -/

/-- What construction leaves (70_reset_and_hazards.md R311, 10_state.md R30). LastTick's 0 is the model's choice, log 7;
the font is the spec's default, log 9. A core constructed with another FONT (20_memory.md R76) holds that font
and is the same otherwise. -/
def Obligations.ResetLeavesTheStatedValues : Prop :=
  (∀ k, State.reset.reg k = 0) ∧ State.reset.i = 0 ∧ State.reset.pc = 0x200 ∧
  (∀ k : Fin 16, State.reset.stack[k] = 0) ∧ State.reset.sp = 0 ∧ State.reset.dt = 0 ∧ State.reset.st = 0 ∧
  (∀ k : Fin 16, State.reset.keys[k] = false) ∧ (∀ px py, State.reset.pix.get px py = false) ∧
  State.reset.mode = .ready ∧ State.reset.fault = none ∧ State.reset.keyHandler = none ∧
  State.reset.displayHandler = false ∧
  (∀ a, 0x050 ≤ a → State.reset.readByte a = 0) ∧
  (∀ a (h : a < Config.font.length), State.reset.readByte a = Config.font[a]) ∧ Config.font.length = 80 ∧
  (∀ p : Params, (∀ a (h : a < 80), (newCoreWith p).readByte a = p.font[a]) ∧
    (∀ a, 0x050 ≤ a → (newCoreWith p).readByte a = 0) ∧
    newCoreWith p = { State.reset with mem := (newCoreWith p).mem } ∧ Memory.wf (newCoreWith p).mem = true)

/-- The reset state meets the invariant (Safety.lean). -/
def Obligations.ResetMeetsTheInvariant : Prop := State.reset.Inv

/-- From every state that meets the invariant, every step gives one that meets it: memory stays canonical, PC and the
stack slots stay in range (10_state.md R37), `Fault` holds terminal faults only and is what the step returned, a
waiting cycle has no fault. -/
def Obligations.EveryStepKeepsTheInvariant : Prop :=
  ∀ s t : State, s.Inv → step s = .next t → t.Inv

/-- Every state the core and its host can reach from construction meets the invariant. -/
def Obligations.ReachableStatesMeetTheInvariant : Prop := ∀ s : State, Reachable s → s.Inv

/-! ## The host interface -/

/-- 20_memory.md R78, 60_exceptions.md R282: load_memory copies the bytes to 0x200 on and changes nothing else, of any
state, or fails with RomTooLarge. -/
def Obligations.LoadMemoryCopiesTheProgram : Prop :=
  ∀ (bytes : List Byte) (s : State), s.mode = .ready →
    (Memory.wf s.mem = true → bytes.length ≤ 3584 → ∃ t, loadMemory bytes s = .ok t ∧ t = { s with mem := t.mem } ∧
      (∀ k (h : k < bytes.length), t.readByte (0x200 + k) = bytes[k]) ∧
      SameMemoryOutside 0x200 bytes.length s t) ∧
    (bytes.length > 3584 → loadMemory bytes s = .error (.romTooLarge bytes.length) ∧
      (HostError.romTooLarge bytes.length).code = some 8)

/-- 60_exceptions.md R286: set_key sets one key and nothing else, and no other operation or step writes Key. -/
def Obligations.SetKeyIsTheOnlyWriterOfTheKeypad : Prop :=
  (∀ (k : Nat) (down : Bool) (s : State), s.mode = .ready →
    (∀ h : k < 16, ∃ t, setKey k down s = .ok t ∧ t.keys[k] = down ∧
      (∀ j : Fin 16, j.val ≠ k → t.keys[j] = s.keys[j]) ∧ t = { s with keys := t.keys }) ∧
    (k ≥ 16 → setKey k down s = .error (.keyIndexInvalid k) ∧ (HostError.keyIndexInvalid k).code = some 9)) ∧
  (∀ s t : State, step s = .next t → t.keys = s.keys) ∧
  (∀ (bytes : List Byte) (s t : State), loadMemory bytes s = .ok t → t.keys = s.keys) ∧
  (∀ (l : List Byte) (s t : State), setKeyWaitHandler l s = .ok t → t.keys = s.keys) ∧
  (∀ s t : State, setDisplayUpdateHandler s = .ok t → t.keys = s.keys) ∧
  (∀ (b : Byte) (s : State), (answerKey b s).keys = s.keys)

/-- 10_state.md R44: the framebuffer is 6144 bytes; the three bytes of pixel (x, y) stand at y*192 + x*3 and are all 0xFF
when it is on and 0x00 when it is off; get_pixel gives the same three, or PixelOutOfRange. -/
def Obligations.FramebufferShowsThePixels : Prop :=
  ∀ s : State, (displayBuffer s).length = 6144 ∧
    (∀ (x : Fin 64) (y : Fin 32) (c : Nat), c < 3 →
      (displayBuffer s)[y.val * 192 + x.val * 3 + c]? = some (if s.pix.get x y then 0xFF else 0x00)) ∧
    (∀ (x : Fin 64) (y : Fin 32) (b : Byte), b = (if s.pix.get x y then 0xFF else 0x00) →
      getPixel x.val y.val s = .ok (b, b, b)) ∧
    (∀ x y : Nat, (x > 63 ∨ y > 31) → getPixel x y s = .error (.pixelOutOfRange x y) ∧
      (HostError.pixelOutOfRange x y).code = some 10)

/-- 40_cycle.md R136: step(0) changes nothing; a call of m + n cycles is a call of m and then one of n, unless the first
returns an error or waits, and then it is that (with n more cycles left). Its first cycle: one that completes is
followed by the other n; one that raises a fault, terminal or not, ends the call with that error; one that waits leaves
the call waiting, all n + 1 cycles still to complete; in a terminal fault none runs. That step(0) returns Ok there too
is log 16. -/
def Obligations.StepCallsCompose : Prop :=
  (∀ s, hostStep 0 s = .ok s) ∧
  (∀ m n s t, hostStep m s = .ok t → hostStep (m + n) s = hostStep n t) ∧
  (∀ m n s f t, hostStep m s = .err f t → hostStep (m + n) s = .err f t) ∧
  (∀ m n left s t, hostStep m s = .waiting left t → hostStep (m + n) s = .waiting (left + n) t) ∧
  (∀ n s t, step s = .next t → t.mode = .ready → t.returned = none → hostStep (n + 1) s = hostStep n t) ∧
  (∀ n s t f, step s = .next t → t.mode = .ready → t.returned = some f → hostStep (n + 1) s = .err f t) ∧
  (∀ n s t x, step s = .next t → t.mode = .awaitingKey x → hostStep (n + 1) s = .waiting (n + 1) t) ∧
  (∀ n s f, step s = .fault f → hostStep (n + 1) s = .err f s)

/-- The end of a run (60_exceptions.md R291): a step there changes nothing but DT, ST and the tick's own records, and the
state after it is the end of a run again. -/
def Obligations.EndOfRunStaysTheEndOfRun : Prop :=
  ∀ s : State, s.endOfRun = true → ∃ t, step s = .next t ∧ t.endOfRun = true ∧
    t = { s with dt := t.dt, st := t.st, lastTick := t.lastTick, tickDraws := t.tickDraws, returned := none }

/-- A word placed for the next fetch is the one the next step runs (the model's withFetchWord, log 17; 40_cycle.md R130). -/
def Obligations.PlacedWordIsTheOneTheStepRuns : Prop :=
  ∀ (s : State) (w : Nat), Memory.wf s.mem = true →
    (s.withFetchWord 16 w).fetchWord.toNat = w % 65536 ∧
    ∀ ins, decodeTableWord 16 w = some ins →
      step (s.withFetchWord 16 w)
        = endOf (exec ins { s.withFetchWord 16 w with pc := (s.withFetchWord 16 w).pc + 2, returned := none })

/-- The handler operations write their handler and nothing else (10_state.md R49; 60_exceptions.md R283, R284), and an
answer that comes while a cycle waits is the byte the next step stores. The handler as a list of bytes, and the answer
as one more byte of it, are the model's form, log 4. -/
def Obligations.HandlerOperationsWriteTheirHandlerOnly : Prop :=
  (∀ s : State, s.mode = .ready →
    (∀ l, setKeyWaitHandler l s = .ok { s with keyHandler := some l }) ∧
    setDisplayUpdateHandler s = .ok { s with displayHandler := true }) ∧
  (∀ (s : State) (b : Byte),
    (∀ l, s.keyHandler = some l → answerKey b s = { s with keyHandler := some (l ++ [b]) }) ∧
    (s.keyHandler = none → answerKey b s = s)) ∧
  (∀ (s : State) (x : RegIdx) (b : Byte), s.fault = none → s.returned = none → s.mode = .awaitingKey x →
    s.keyHandler = some [] → ∃ u, step (answerKey b s) = .next u ∧ u.reg x = b ∧ SameRegsBut [x] s u ∧
      u.mode = .ready ∧ u.keyHandler = some [] ∧ u.returned = none)

/-- 60_exceptions.md R287: each inspection port reads the element it names, in every state, also while a cycle waits; an
index above 15 is an error (its name is the model's, log 18). -/
def Obligations.InspectionReadsTheNamedElement : Prop :=
  ∀ s : State,
    (∀ k : RegIdx, inspectV k.val s = .ok (s.reg k)) ∧ (∀ k : Fin 16, inspectStack k.val s = .ok s.stack[k]) ∧
    (∀ k, k > 15 → inspectV k s = .error (.inspectIndexInvalid k) ∧ inspectStack k s = .error (.inspectIndexInvalid k)) ∧
    inspectPc s = s.pc ∧ inspectSp s = s.sp.val ∧ inspectI s = s.i ∧ inspectDt s = s.dt ∧ inspectSt s = s.st
end

