-- ==== Sys2Proof/Laws/Encoding.lean ====
section
/-! SUPPORT. The packed formats as numbers, and the fields of a packed word. -/

namespace Sys2Proof

/-! ## Packed words as numbers -/

theorem toNat_append_add {m n : Nat} (a : BitVec m) (b : BitVec n) : (a ++ b).toNat = a.toNat * 2 ^ n + b.toNat := by
  rw [BitVec.toNat_append, ← Nat.shiftLeft_add_eq_or_of_lt b.isLt, Nat.shiftLeft_eq]

theorem toNat_packNnn (t : BitVec 4) (nnn : BitVec 12) : (packNnn t nnn).toNat = t.toNat * 4096 + nnn.toNat := by
  rw [packNnn, toNat_append_add]
  omega

theorem toNat_packXkk (t : BitVec 4) (x : RegIdx) (kk : Byte) :
    (packXkk t x kk).toNat = t.toNat * 4096 + x.val * 256 + kk.toNat := by
  simp only [packXkk, toNat_append_add, BitVec.toNat_ofFin]
  omega

theorem toNat_packXyn (t : BitVec 4) (x y : RegIdx) (n : BitVec 4) :
    (packXyn t x y n).toNat = t.toNat * 4096 + x.val * 256 + y.val * 16 + n.toNat := by
  simp only [packXyn, toNat_append_add, BitVec.toNat_ofFin]
  omega

/-! ## Fields as numbers -/

theorem toNat_fieldT (op : Word) : (fieldT op).toNat = op.toNat / 4096 := by
  simp only [fieldT, BitVec.extractLsb'_toNat, Nat.shiftRight_eq_div_pow]
  have := op.isLt
  omega

theorem val_fieldX (op : Word) : (fieldX op).val = op.toNat / 256 % 16 := by
  simp only [fieldX, BitVec.val_toFin, BitVec.extractLsb'_toNat, Nat.shiftRight_eq_div_pow]

theorem val_fieldY (op : Word) : (fieldY op).val = op.toNat / 16 % 16 := by
  simp only [fieldY, BitVec.val_toFin, BitVec.extractLsb'_toNat, Nat.shiftRight_eq_div_pow]

theorem toNat_fieldN (op : Word) : (fieldN op).toNat = op.toNat % 16 := by
  simp only [fieldN, BitVec.extractLsb'_toNat, Nat.shiftRight_zero]

theorem toNat_fieldKk (op : Word) : (fieldKk op).toNat = op.toNat % 256 := by
  simp only [fieldKk, BitVec.extractLsb'_toNat, Nat.shiftRight_zero]

theorem toNat_fieldNnn (op : Word) : (fieldNnn op).toNat = op.toNat % 4096 := by
  simp only [fieldNnn, BitVec.extractLsb'_toNat, Nat.shiftRight_zero]

/-! ## Fields of packed words -/

section Nnn
variable (t : BitVec 4) (nnn : BitVec 12)

@[simp] theorem fieldT_packNnn : fieldT (packNnn t nnn) = t := by
  apply BitVec.eq_of_toNat_eq
  rw [toNat_fieldT, toNat_packNnn]
  have := nnn.isLt
  omega

@[simp] theorem fieldNnn_packNnn : fieldNnn (packNnn t nnn) = nnn := by
  apply BitVec.eq_of_toNat_eq
  rw [toNat_fieldNnn, toNat_packNnn]
  have := nnn.isLt
  omega
end Nnn

section Xkk
variable (t : BitVec 4) (x : RegIdx) (kk : Byte)

@[simp] theorem fieldT_packXkk : fieldT (packXkk t x kk) = t := by
  apply BitVec.eq_of_toNat_eq
  rw [toNat_fieldT, toNat_packXkk]
  have := kk.isLt
  omega

@[simp] theorem fieldX_packXkk : fieldX (packXkk t x kk) = x := by
  apply Fin.ext
  rw [val_fieldX, toNat_packXkk]
  have := kk.isLt
  omega

@[simp] theorem fieldKk_packXkk : fieldKk (packXkk t x kk) = kk := by
  apply BitVec.eq_of_toNat_eq
  rw [toNat_fieldKk, toNat_packXkk]
  have := kk.isLt
  omega
end Xkk

section Xyn
variable (t : BitVec 4) (x y : RegIdx) (n : BitVec 4)

@[simp] theorem fieldT_packXyn : fieldT (packXyn t x y n) = t := by
  apply BitVec.eq_of_toNat_eq
  rw [toNat_fieldT, toNat_packXyn]
  have := n.isLt
  omega

@[simp] theorem fieldX_packXyn : fieldX (packXyn t x y n) = x := by
  apply Fin.ext
  rw [val_fieldX, toNat_packXyn]
  have := n.isLt
  omega

@[simp] theorem fieldY_packXyn : fieldY (packXyn t x y n) = y := by
  apply Fin.ext
  rw [val_fieldY, toNat_packXyn]
  have := n.isLt
  omega

@[simp] theorem fieldN_packXyn : fieldN (packXyn t x y n) = n := by
  apply BitVec.eq_of_toNat_eq
  rw [toNat_fieldN, toNat_packXyn]
  have := n.isLt
  omega
end Xyn

/-! ## Words and their two bytes -/

theorem toNat_wordOfBytes (hi lo : Byte) : (wordOfBytes hi lo).toNat = hi.toNat * 256 + lo.toNat := by
  rw [wordOfBytes, toNat_append_add]
  omega

theorem toNat_highByte (op : Word) : (highByte op).toNat = op.toNat / 256 := by
  simp only [highByte, BitVec.extractLsb'_toNat, Nat.shiftRight_eq_div_pow]
  have := op.isLt
  omega

theorem toNat_lowByte (op : Word) : (lowByte op).toNat = op.toNat % 256 := by
  simp only [lowByte, BitVec.extractLsb'_toNat, Nat.shiftRight_zero]

@[simp] theorem wordOfBytes_highByte_lowByte (op : Word) : wordOfBytes (highByte op) (lowByte op) = op := by
  apply BitVec.eq_of_toNat_eq
  rw [toNat_wordOfBytes, toNat_highByte, toNat_lowByte]
  omega

end Sys2Proof
end

