-- ==== Sys2Proof/Laws/State.lean ====
section
/-! SUPPORT. One lemma per field per update of the state, so that no proof unfolds a record update. -/

namespace Sys2Proof.Machine

/-! ## setReg -/

@[simp] theorem setReg_mem (s : State) (x : RegIdx) (b : Byte) : (s.setReg x b).mem = s.mem := rfl
@[simp] theorem setReg_v (s : State) (x : RegIdx) (b : Byte) : (s.setReg x b).v = s.v.set x b := rfl
@[simp] theorem setReg_i (s : State) (x : RegIdx) (b : Byte) : (s.setReg x b).i = s.i := rfl
@[simp] theorem setReg_pc (s : State) (x : RegIdx) (b : Byte) : (s.setReg x b).pc = s.pc := rfl
@[simp] theorem setReg_stack (s : State) (x : RegIdx) (b : Byte) : (s.setReg x b).stack = s.stack := rfl
@[simp] theorem setReg_sp (s : State) (x : RegIdx) (b : Byte) : (s.setReg x b).sp = s.sp := rfl
@[simp] theorem setReg_dt (s : State) (x : RegIdx) (b : Byte) : (s.setReg x b).dt = s.dt := rfl
@[simp] theorem setReg_st (s : State) (x : RegIdx) (b : Byte) : (s.setReg x b).st = s.st := rfl
@[simp] theorem setReg_keys (s : State) (x : RegIdx) (b : Byte) : (s.setReg x b).keys = s.keys := rfl
@[simp] theorem setReg_pix (s : State) (x : RegIdx) (b : Byte) : (s.setReg x b).pix = s.pix := rfl
@[simp] theorem setReg_mode (s : State) (x : RegIdx) (b : Byte) : (s.setReg x b).mode = s.mode := rfl
@[simp] theorem setReg_fault (s : State) (x : RegIdx) (b : Byte) : (s.setReg x b).fault = s.fault := rfl
@[simp] theorem setReg_lastTick (s : State) (x : RegIdx) (b : Byte) : (s.setReg x b).lastTick = s.lastTick := rfl
@[simp] theorem setReg_keyHandler (s : State) (x : RegIdx) (b : Byte) : (s.setReg x b).keyHandler = s.keyHandler := rfl
@[simp] theorem setReg_displayHandler (s : State) (x : RegIdx) (b : Byte) : (s.setReg x b).displayHandler = s.displayHandler := rfl
@[simp] theorem setReg_returned (s : State) (x : RegIdx) (b : Byte) : (s.setReg x b).returned = s.returned := rfl
@[simp] theorem setReg_notifications (s : State) (x : RegIdx) (b : Byte) : (s.setReg x b).notifications = s.notifications := rfl
@[simp] theorem setReg_handlerCalls (s : State) (x : RegIdx) (b : Byte) : (s.setReg x b).handlerCalls = s.handlerCalls := rfl
@[simp] theorem setReg_randomDraws (s : State) (x : RegIdx) (b : Byte) : (s.setReg x b).randomDraws = s.randomDraws := rfl
@[simp] theorem setReg_tickDraws (s : State) (x : RegIdx) (b : Byte) : (s.setReg x b).tickDraws = s.tickDraws := rfl
@[simp] theorem readByte_setReg (s : State) (x : RegIdx) (b : Byte) (addr : Nat) : (s.setReg x b).readByte addr = s.readByte addr := rfl

/-! ## writeByte -/

@[simp] theorem writeByte_mem (s : State) (a : Nat) (b : Byte) : (s.writeByte a b).mem = Memory.write a b s.mem := rfl
@[simp] theorem writeByte_v (s : State) (a : Nat) (b : Byte) : (s.writeByte a b).v = s.v := rfl
@[simp] theorem writeByte_i (s : State) (a : Nat) (b : Byte) : (s.writeByte a b).i = s.i := rfl
@[simp] theorem writeByte_pc (s : State) (a : Nat) (b : Byte) : (s.writeByte a b).pc = s.pc := rfl
@[simp] theorem writeByte_stack (s : State) (a : Nat) (b : Byte) : (s.writeByte a b).stack = s.stack := rfl
@[simp] theorem writeByte_sp (s : State) (a : Nat) (b : Byte) : (s.writeByte a b).sp = s.sp := rfl
@[simp] theorem writeByte_dt (s : State) (a : Nat) (b : Byte) : (s.writeByte a b).dt = s.dt := rfl
@[simp] theorem writeByte_st (s : State) (a : Nat) (b : Byte) : (s.writeByte a b).st = s.st := rfl
@[simp] theorem writeByte_keys (s : State) (a : Nat) (b : Byte) : (s.writeByte a b).keys = s.keys := rfl
@[simp] theorem writeByte_pix (s : State) (a : Nat) (b : Byte) : (s.writeByte a b).pix = s.pix := rfl
@[simp] theorem writeByte_mode (s : State) (a : Nat) (b : Byte) : (s.writeByte a b).mode = s.mode := rfl
@[simp] theorem writeByte_fault (s : State) (a : Nat) (b : Byte) : (s.writeByte a b).fault = s.fault := rfl
@[simp] theorem writeByte_lastTick (s : State) (a : Nat) (b : Byte) : (s.writeByte a b).lastTick = s.lastTick := rfl
@[simp] theorem writeByte_keyHandler (s : State) (a : Nat) (b : Byte) : (s.writeByte a b).keyHandler = s.keyHandler := rfl
@[simp] theorem writeByte_displayHandler (s : State) (a : Nat) (b : Byte) : (s.writeByte a b).displayHandler = s.displayHandler := rfl
@[simp] theorem writeByte_returned (s : State) (a : Nat) (b : Byte) : (s.writeByte a b).returned = s.returned := rfl
@[simp] theorem writeByte_notifications (s : State) (a : Nat) (b : Byte) : (s.writeByte a b).notifications = s.notifications := rfl
@[simp] theorem writeByte_handlerCalls (s : State) (a : Nat) (b : Byte) : (s.writeByte a b).handlerCalls = s.handlerCalls := rfl
@[simp] theorem writeByte_randomDraws (s : State) (a : Nat) (b : Byte) : (s.writeByte a b).randomDraws = s.randomDraws := rfl
@[simp] theorem writeByte_tickDraws (s : State) (a : Nat) (b : Byte) : (s.writeByte a b).tickDraws = s.tickDraws := rfl
@[simp] theorem reg_writeByte (s : State) (a : Nat) (b : Byte) (k : RegIdx) : (s.writeByte a b).reg k = s.reg k := rfl

/-! ## enterFault -/

@[simp] theorem enterFault_mem (s : State) (f : Fault) : (s.enterFault f).mem = s.mem := rfl
@[simp] theorem enterFault_v (s : State) (f : Fault) : (s.enterFault f).v = s.v := rfl
@[simp] theorem enterFault_i (s : State) (f : Fault) : (s.enterFault f).i = s.i := rfl
@[simp] theorem enterFault_pc (s : State) (f : Fault) : (s.enterFault f).pc = s.pc := rfl
@[simp] theorem enterFault_stack (s : State) (f : Fault) : (s.enterFault f).stack = s.stack := rfl
@[simp] theorem enterFault_sp (s : State) (f : Fault) : (s.enterFault f).sp = s.sp := rfl
@[simp] theorem enterFault_dt (s : State) (f : Fault) : (s.enterFault f).dt = s.dt := rfl
@[simp] theorem enterFault_st (s : State) (f : Fault) : (s.enterFault f).st = s.st := rfl
@[simp] theorem enterFault_keys (s : State) (f : Fault) : (s.enterFault f).keys = s.keys := rfl
@[simp] theorem enterFault_pix (s : State) (f : Fault) : (s.enterFault f).pix = s.pix := rfl
@[simp] theorem enterFault_mode (s : State) (f : Fault) : (s.enterFault f).mode = s.mode := rfl
@[simp] theorem enterFault_fault (s : State) (f : Fault) : (s.enterFault f).fault = if f.terminal then some f else s.fault := rfl
@[simp] theorem enterFault_lastTick (s : State) (f : Fault) : (s.enterFault f).lastTick = s.lastTick := rfl
@[simp] theorem enterFault_keyHandler (s : State) (f : Fault) : (s.enterFault f).keyHandler = s.keyHandler := rfl
@[simp] theorem enterFault_displayHandler (s : State) (f : Fault) : (s.enterFault f).displayHandler = s.displayHandler := rfl
@[simp] theorem enterFault_returned (s : State) (f : Fault) : (s.enterFault f).returned = some f := rfl
@[simp] theorem enterFault_notifications (s : State) (f : Fault) : (s.enterFault f).notifications = s.notifications := rfl
@[simp] theorem enterFault_handlerCalls (s : State) (f : Fault) : (s.enterFault f).handlerCalls = s.handlerCalls := rfl
@[simp] theorem enterFault_randomDraws (s : State) (f : Fault) : (s.enterFault f).randomDraws = s.randomDraws := rfl
@[simp] theorem enterFault_tickDraws (s : State) (f : Fault) : (s.enterFault f).tickDraws = s.tickDraws := rfl
@[simp] theorem reg_enterFault (s : State) (f : Fault) (k : RegIdx) : (s.enterFault f).reg k = s.reg k := rfl
@[simp] theorem readByte_enterFault (s : State) (f : Fault) (addr : Nat) : (s.enterFault f).readByte addr = s.readByte addr := rfl

/-! ## beginCycle -/

@[simp] theorem beginCycle_mem (s : State) : (s.beginCycle).mem = s.mem := rfl
@[simp] theorem beginCycle_v (s : State) : (s.beginCycle).v = s.v := rfl
@[simp] theorem beginCycle_i (s : State) : (s.beginCycle).i = s.i := rfl
@[simp] theorem beginCycle_pc (s : State) : (s.beginCycle).pc = s.pc := rfl
@[simp] theorem beginCycle_stack (s : State) : (s.beginCycle).stack = s.stack := rfl
@[simp] theorem beginCycle_sp (s : State) : (s.beginCycle).sp = s.sp := rfl
@[simp] theorem beginCycle_dt (s : State) : (s.beginCycle).dt = s.dt := rfl
@[simp] theorem beginCycle_st (s : State) : (s.beginCycle).st = s.st := rfl
@[simp] theorem beginCycle_keys (s : State) : (s.beginCycle).keys = s.keys := rfl
@[simp] theorem beginCycle_pix (s : State) : (s.beginCycle).pix = s.pix := rfl
@[simp] theorem beginCycle_mode (s : State) : (s.beginCycle).mode = s.mode := rfl
@[simp] theorem beginCycle_fault (s : State) : (s.beginCycle).fault = s.fault := rfl
@[simp] theorem beginCycle_lastTick (s : State) : (s.beginCycle).lastTick = s.lastTick := rfl
@[simp] theorem beginCycle_keyHandler (s : State) : (s.beginCycle).keyHandler = s.keyHandler := rfl
@[simp] theorem beginCycle_displayHandler (s : State) : (s.beginCycle).displayHandler = s.displayHandler := rfl
@[simp] theorem beginCycle_returned (s : State) : (s.beginCycle).returned = none := rfl
@[simp] theorem beginCycle_notifications (s : State) : (s.beginCycle).notifications = s.notifications := rfl
@[simp] theorem beginCycle_handlerCalls (s : State) : (s.beginCycle).handlerCalls = s.handlerCalls := rfl
@[simp] theorem beginCycle_randomDraws (s : State) : (s.beginCycle).randomDraws = s.randomDraws := rfl
@[simp] theorem beginCycle_tickDraws (s : State) : (s.beginCycle).tickDraws = s.tickDraws := rfl
@[simp] theorem reg_beginCycle (s : State) (k : RegIdx) : (s.beginCycle).reg k = s.reg k := rfl
@[simp] theorem readByte_beginCycle (s : State) (addr : Nat) : (s.beginCycle).readByte addr = s.readByte addr := rfl

/-! ## pushReturn -/

@[simp] theorem pushReturn_mem (s : State) (h : s.sp.val < 16) : (s.pushReturn h).mem = s.mem := rfl
@[simp] theorem pushReturn_v (s : State) (h : s.sp.val < 16) : (s.pushReturn h).v = s.v := rfl
@[simp] theorem pushReturn_i (s : State) (h : s.sp.val < 16) : (s.pushReturn h).i = s.i := rfl
@[simp] theorem pushReturn_pc (s : State) (h : s.sp.val < 16) : (s.pushReturn h).pc = s.pc := rfl
@[simp] theorem pushReturn_stack (s : State) (h : s.sp.val < 16) : (s.pushReturn h).stack = s.stack.set s.sp.val s.pc h := rfl
@[simp] theorem pushReturn_sp (s : State) (h : s.sp.val < 16) : (s.pushReturn h).sp = ⟨s.sp.val + 1, by omega⟩ := rfl
@[simp] theorem pushReturn_dt (s : State) (h : s.sp.val < 16) : (s.pushReturn h).dt = s.dt := rfl
@[simp] theorem pushReturn_st (s : State) (h : s.sp.val < 16) : (s.pushReturn h).st = s.st := rfl
@[simp] theorem pushReturn_keys (s : State) (h : s.sp.val < 16) : (s.pushReturn h).keys = s.keys := rfl
@[simp] theorem pushReturn_pix (s : State) (h : s.sp.val < 16) : (s.pushReturn h).pix = s.pix := rfl
@[simp] theorem pushReturn_mode (s : State) (h : s.sp.val < 16) : (s.pushReturn h).mode = s.mode := rfl
@[simp] theorem pushReturn_fault (s : State) (h : s.sp.val < 16) : (s.pushReturn h).fault = s.fault := rfl
@[simp] theorem pushReturn_lastTick (s : State) (h : s.sp.val < 16) : (s.pushReturn h).lastTick = s.lastTick := rfl
@[simp] theorem pushReturn_keyHandler (s : State) (h : s.sp.val < 16) : (s.pushReturn h).keyHandler = s.keyHandler := rfl
@[simp] theorem pushReturn_displayHandler (s : State) (h : s.sp.val < 16) : (s.pushReturn h).displayHandler = s.displayHandler := rfl
@[simp] theorem pushReturn_returned (s : State) (h : s.sp.val < 16) : (s.pushReturn h).returned = s.returned := rfl
@[simp] theorem pushReturn_notifications (s : State) (h : s.sp.val < 16) : (s.pushReturn h).notifications = s.notifications := rfl
@[simp] theorem pushReturn_handlerCalls (s : State) (h : s.sp.val < 16) : (s.pushReturn h).handlerCalls = s.handlerCalls := rfl
@[simp] theorem pushReturn_randomDraws (s : State) (h : s.sp.val < 16) : (s.pushReturn h).randomDraws = s.randomDraws := rfl
@[simp] theorem pushReturn_tickDraws (s : State) (h : s.sp.val < 16) : (s.pushReturn h).tickDraws = s.tickDraws := rfl
@[simp] theorem reg_pushReturn (s : State) (h : s.sp.val < 16) (k : RegIdx) : (s.pushReturn h).reg k = s.reg k := rfl
@[simp] theorem readByte_pushReturn (s : State) (h : s.sp.val < 16) (addr : Nat) : (s.pushReturn h).readByte addr = s.readByte addr := rfl

/-! ## popReturn -/

@[simp] theorem popReturn_mem (s : State) (h : 0 < s.sp.val) : (s.popReturn h).mem = s.mem := rfl
@[simp] theorem popReturn_v (s : State) (h : 0 < s.sp.val) : (s.popReturn h).v = s.v := rfl
@[simp] theorem popReturn_i (s : State) (h : 0 < s.sp.val) : (s.popReturn h).i = s.i := rfl
@[simp] theorem popReturn_pc (s : State) (h : 0 < s.sp.val) : (s.popReturn h).pc = s.stack[s.sp.val - 1]'(by omega) := rfl
@[simp] theorem popReturn_stack (s : State) (h : 0 < s.sp.val) : (s.popReturn h).stack = s.stack := rfl
@[simp] theorem popReturn_sp (s : State) (h : 0 < s.sp.val) : (s.popReturn h).sp = ⟨s.sp.val - 1, by omega⟩ := rfl
@[simp] theorem popReturn_dt (s : State) (h : 0 < s.sp.val) : (s.popReturn h).dt = s.dt := rfl
@[simp] theorem popReturn_st (s : State) (h : 0 < s.sp.val) : (s.popReturn h).st = s.st := rfl
@[simp] theorem popReturn_keys (s : State) (h : 0 < s.sp.val) : (s.popReturn h).keys = s.keys := rfl
@[simp] theorem popReturn_pix (s : State) (h : 0 < s.sp.val) : (s.popReturn h).pix = s.pix := rfl
@[simp] theorem popReturn_mode (s : State) (h : 0 < s.sp.val) : (s.popReturn h).mode = s.mode := rfl
@[simp] theorem popReturn_fault (s : State) (h : 0 < s.sp.val) : (s.popReturn h).fault = s.fault := rfl
@[simp] theorem popReturn_lastTick (s : State) (h : 0 < s.sp.val) : (s.popReturn h).lastTick = s.lastTick := rfl
@[simp] theorem popReturn_keyHandler (s : State) (h : 0 < s.sp.val) : (s.popReturn h).keyHandler = s.keyHandler := rfl
@[simp] theorem popReturn_displayHandler (s : State) (h : 0 < s.sp.val) : (s.popReturn h).displayHandler = s.displayHandler := rfl
@[simp] theorem popReturn_returned (s : State) (h : 0 < s.sp.val) : (s.popReturn h).returned = s.returned := rfl
@[simp] theorem popReturn_notifications (s : State) (h : 0 < s.sp.val) : (s.popReturn h).notifications = s.notifications := rfl
@[simp] theorem popReturn_handlerCalls (s : State) (h : 0 < s.sp.val) : (s.popReturn h).handlerCalls = s.handlerCalls := rfl
@[simp] theorem popReturn_randomDraws (s : State) (h : 0 < s.sp.val) : (s.popReturn h).randomDraws = s.randomDraws := rfl
@[simp] theorem popReturn_tickDraws (s : State) (h : 0 < s.sp.val) : (s.popReturn h).tickDraws = s.tickDraws := rfl
@[simp] theorem reg_popReturn (s : State) (h : 0 < s.sp.val) (k : RegIdx) : (s.popReturn h).reg k = s.reg k := rfl
@[simp] theorem readByte_popReturn (s : State) (h : 0 < s.sp.val) (addr : Nat) : (s.popReturn h).readByte addr = s.readByte addr := rfl

/-! ## notifyDisplay -/

@[simp] theorem notifyDisplay_mem (s : State) : (s.notifyDisplay).mem = s.mem := rfl
@[simp] theorem notifyDisplay_v (s : State) : (s.notifyDisplay).v = s.v := rfl
@[simp] theorem notifyDisplay_i (s : State) : (s.notifyDisplay).i = s.i := rfl
@[simp] theorem notifyDisplay_pc (s : State) : (s.notifyDisplay).pc = s.pc := rfl
@[simp] theorem notifyDisplay_stack (s : State) : (s.notifyDisplay).stack = s.stack := rfl
@[simp] theorem notifyDisplay_sp (s : State) : (s.notifyDisplay).sp = s.sp := rfl
@[simp] theorem notifyDisplay_dt (s : State) : (s.notifyDisplay).dt = s.dt := rfl
@[simp] theorem notifyDisplay_st (s : State) : (s.notifyDisplay).st = s.st := rfl
@[simp] theorem notifyDisplay_keys (s : State) : (s.notifyDisplay).keys = s.keys := rfl
@[simp] theorem notifyDisplay_pix (s : State) : (s.notifyDisplay).pix = s.pix := rfl
@[simp] theorem notifyDisplay_mode (s : State) : (s.notifyDisplay).mode = s.mode := rfl
@[simp] theorem notifyDisplay_fault (s : State) : (s.notifyDisplay).fault = s.fault := rfl
@[simp] theorem notifyDisplay_lastTick (s : State) : (s.notifyDisplay).lastTick = s.lastTick := rfl
@[simp] theorem notifyDisplay_keyHandler (s : State) : (s.notifyDisplay).keyHandler = s.keyHandler := rfl
@[simp] theorem notifyDisplay_displayHandler (s : State) : (s.notifyDisplay).displayHandler = s.displayHandler := rfl
@[simp] theorem notifyDisplay_returned (s : State) : (s.notifyDisplay).returned = s.returned := rfl
@[simp] theorem notifyDisplay_notifications (s : State) : (s.notifyDisplay).notifications = s.notifications + 1 := rfl
@[simp] theorem notifyDisplay_handlerCalls (s : State) : (s.notifyDisplay).handlerCalls = if s.displayHandler then s.handlerCalls + 1 else s.handlerCalls := rfl
@[simp] theorem notifyDisplay_randomDraws (s : State) : (s.notifyDisplay).randomDraws = s.randomDraws := rfl
@[simp] theorem notifyDisplay_tickDraws (s : State) : (s.notifyDisplay).tickDraws = s.tickDraws := rfl
@[simp] theorem reg_notifyDisplay (s : State) (k : RegIdx) : (s.notifyDisplay).reg k = s.reg k := rfl
@[simp] theorem readByte_notifyDisplay (s : State) (addr : Nat) : (s.notifyDisplay).readByte addr = s.readByte addr := rfl

/-! ## afterRandomByte -/

@[simp] theorem afterRandomByte_mem (s : State) : (s.afterRandomByte).mem = s.mem := rfl
@[simp] theorem afterRandomByte_v (s : State) : (s.afterRandomByte).v = s.v := rfl
@[simp] theorem afterRandomByte_i (s : State) : (s.afterRandomByte).i = s.i := rfl
@[simp] theorem afterRandomByte_pc (s : State) : (s.afterRandomByte).pc = s.pc := rfl
@[simp] theorem afterRandomByte_stack (s : State) : (s.afterRandomByte).stack = s.stack := rfl
@[simp] theorem afterRandomByte_sp (s : State) : (s.afterRandomByte).sp = s.sp := rfl
@[simp] theorem afterRandomByte_dt (s : State) : (s.afterRandomByte).dt = s.dt := rfl
@[simp] theorem afterRandomByte_st (s : State) : (s.afterRandomByte).st = s.st := rfl
@[simp] theorem afterRandomByte_keys (s : State) : (s.afterRandomByte).keys = s.keys := rfl
@[simp] theorem afterRandomByte_pix (s : State) : (s.afterRandomByte).pix = s.pix := rfl
@[simp] theorem afterRandomByte_mode (s : State) : (s.afterRandomByte).mode = s.mode := rfl
@[simp] theorem afterRandomByte_fault (s : State) : (s.afterRandomByte).fault = s.fault := rfl
@[simp] theorem afterRandomByte_lastTick (s : State) : (s.afterRandomByte).lastTick = s.lastTick := rfl
@[simp] theorem afterRandomByte_keyHandler (s : State) : (s.afterRandomByte).keyHandler = s.keyHandler := rfl
@[simp] theorem afterRandomByte_displayHandler (s : State) : (s.afterRandomByte).displayHandler = s.displayHandler := rfl
@[simp] theorem afterRandomByte_returned (s : State) : (s.afterRandomByte).returned = s.returned := rfl
@[simp] theorem afterRandomByte_notifications (s : State) : (s.afterRandomByte).notifications = s.notifications := rfl
@[simp] theorem afterRandomByte_handlerCalls (s : State) : (s.afterRandomByte).handlerCalls = s.handlerCalls := rfl
@[simp] theorem afterRandomByte_randomDraws (s : State) : (s.afterRandomByte).randomDraws = s.randomDraws + 1 := rfl
@[simp] theorem afterRandomByte_tickDraws (s : State) : (s.afterRandomByte).tickDraws = s.tickDraws := rfl
@[simp] theorem reg_afterRandomByte (s : State) (k : RegIdx) : (s.afterRandomByte).reg k = s.reg k := rfl
@[simp] theorem readByte_afterRandomByte (s : State) (addr : Nat) : (s.afterRandomByte).readByte addr = s.readByte addr := rfl

/-! ## advanceTimers -/

@[simp] theorem advanceTimers_mem (s : State) (tick : Bool) : (s.advanceTimers tick).mem = s.mem := rfl
@[simp] theorem advanceTimers_v (s : State) (tick : Bool) : (s.advanceTimers tick).v = s.v := rfl
@[simp] theorem advanceTimers_i (s : State) (tick : Bool) : (s.advanceTimers tick).i = s.i := rfl
@[simp] theorem advanceTimers_pc (s : State) (tick : Bool) : (s.advanceTimers tick).pc = s.pc := rfl
@[simp] theorem advanceTimers_stack (s : State) (tick : Bool) : (s.advanceTimers tick).stack = s.stack := rfl
@[simp] theorem advanceTimers_sp (s : State) (tick : Bool) : (s.advanceTimers tick).sp = s.sp := rfl
@[simp] theorem advanceTimers_dt (s : State) (tick : Bool) : (s.advanceTimers tick).dt = tickTimer tick s.dt := rfl
@[simp] theorem advanceTimers_st (s : State) (tick : Bool) : (s.advanceTimers tick).st = tickTimer tick s.st := rfl
@[simp] theorem advanceTimers_keys (s : State) (tick : Bool) : (s.advanceTimers tick).keys = s.keys := rfl
@[simp] theorem advanceTimers_pix (s : State) (tick : Bool) : (s.advanceTimers tick).pix = s.pix := rfl
@[simp] theorem advanceTimers_mode (s : State) (tick : Bool) : (s.advanceTimers tick).mode = s.mode := rfl
@[simp] theorem advanceTimers_fault (s : State) (tick : Bool) : (s.advanceTimers tick).fault = s.fault := rfl
@[simp] theorem advanceTimers_lastTick (s : State) (tick : Bool) : (s.advanceTimers tick).lastTick = if tick then Config.tickTime s.tickDraws else s.lastTick := rfl
@[simp] theorem advanceTimers_keyHandler (s : State) (tick : Bool) : (s.advanceTimers tick).keyHandler = s.keyHandler := rfl
@[simp] theorem advanceTimers_displayHandler (s : State) (tick : Bool) : (s.advanceTimers tick).displayHandler = s.displayHandler := rfl
@[simp] theorem advanceTimers_returned (s : State) (tick : Bool) : (s.advanceTimers tick).returned = s.returned := rfl
@[simp] theorem advanceTimers_notifications (s : State) (tick : Bool) : (s.advanceTimers tick).notifications = s.notifications := rfl
@[simp] theorem advanceTimers_handlerCalls (s : State) (tick : Bool) : (s.advanceTimers tick).handlerCalls = s.handlerCalls := rfl
@[simp] theorem advanceTimers_randomDraws (s : State) (tick : Bool) : (s.advanceTimers tick).randomDraws = s.randomDraws := rfl
@[simp] theorem advanceTimers_tickDraws (s : State) (tick : Bool) : (s.advanceTimers tick).tickDraws = s.tickDraws + 1 := rfl
@[simp] theorem reg_advanceTimers (s : State) (tick : Bool) (k : RegIdx) : (s.advanceTimers tick).reg k = s.reg k := rfl
@[simp] theorem readByte_advanceTimers (s : State) (tick : Bool) (addr : Nat) : (s.advanceTimers tick).readByte addr = s.readByte addr := rfl

/-! ## fetched -/

@[simp] theorem fetched_mem (s : State) : (s.fetched).mem = s.mem := rfl
@[simp] theorem fetched_v (s : State) : (s.fetched).v = s.v := rfl
@[simp] theorem fetched_i (s : State) : (s.fetched).i = s.i := rfl
@[simp] theorem fetched_pc (s : State) : (s.fetched).pc = s.pc + 2 := rfl
@[simp] theorem fetched_stack (s : State) : (s.fetched).stack = s.stack := rfl
@[simp] theorem fetched_sp (s : State) : (s.fetched).sp = s.sp := rfl
@[simp] theorem fetched_dt (s : State) : (s.fetched).dt = s.dt := rfl
@[simp] theorem fetched_st (s : State) : (s.fetched).st = s.st := rfl
@[simp] theorem fetched_keys (s : State) : (s.fetched).keys = s.keys := rfl
@[simp] theorem fetched_pix (s : State) : (s.fetched).pix = s.pix := rfl
@[simp] theorem fetched_mode (s : State) : (s.fetched).mode = s.mode := rfl
@[simp] theorem fetched_fault (s : State) : (s.fetched).fault = s.fault := rfl
@[simp] theorem fetched_lastTick (s : State) : (s.fetched).lastTick = s.lastTick := rfl
@[simp] theorem fetched_keyHandler (s : State) : (s.fetched).keyHandler = s.keyHandler := rfl
@[simp] theorem fetched_displayHandler (s : State) : (s.fetched).displayHandler = s.displayHandler := rfl
@[simp] theorem fetched_returned (s : State) : (s.fetched).returned = s.returned := rfl
@[simp] theorem fetched_notifications (s : State) : (s.fetched).notifications = s.notifications := rfl
@[simp] theorem fetched_handlerCalls (s : State) : (s.fetched).handlerCalls = s.handlerCalls := rfl
@[simp] theorem fetched_randomDraws (s : State) : (s.fetched).randomDraws = s.randomDraws := rfl
@[simp] theorem fetched_tickDraws (s : State) : (s.fetched).tickDraws = s.tickDraws := rfl
@[simp] theorem reg_fetched (s : State) (k : RegIdx) : (s.fetched).reg k = s.reg k := rfl
@[simp] theorem readByte_fetched (s : State) (addr : Nat) : (s.fetched).readByte addr = s.readByte addr := rfl

/-! ## skipIf: what it leaves -/

@[simp] theorem skipIf_mem (s : State) (c : Bool) : (s.skipIf c).mem = s.mem := by
  unfold State.skipIf; split <;> rfl
@[simp] theorem skipIf_v (s : State) (c : Bool) : (s.skipIf c).v = s.v := by
  unfold State.skipIf; split <;> rfl
@[simp] theorem skipIf_i (s : State) (c : Bool) : (s.skipIf c).i = s.i := by
  unfold State.skipIf; split <;> rfl
@[simp] theorem skipIf_stack (s : State) (c : Bool) : (s.skipIf c).stack = s.stack := by
  unfold State.skipIf; split <;> rfl
@[simp] theorem skipIf_sp (s : State) (c : Bool) : (s.skipIf c).sp = s.sp := by
  unfold State.skipIf; split <;> rfl
@[simp] theorem skipIf_dt (s : State) (c : Bool) : (s.skipIf c).dt = s.dt := by
  unfold State.skipIf; split <;> rfl
@[simp] theorem skipIf_st (s : State) (c : Bool) : (s.skipIf c).st = s.st := by
  unfold State.skipIf; split <;> rfl
@[simp] theorem skipIf_keys (s : State) (c : Bool) : (s.skipIf c).keys = s.keys := by
  unfold State.skipIf; split <;> rfl
@[simp] theorem skipIf_pix (s : State) (c : Bool) : (s.skipIf c).pix = s.pix := by
  unfold State.skipIf; split <;> rfl
@[simp] theorem skipIf_mode (s : State) (c : Bool) : (s.skipIf c).mode = s.mode := by
  unfold State.skipIf; split <;> rfl
@[simp] theorem skipIf_fault (s : State) (c : Bool) : (s.skipIf c).fault = s.fault := by
  unfold State.skipIf; split <;> rfl
@[simp] theorem skipIf_lastTick (s : State) (c : Bool) : (s.skipIf c).lastTick = s.lastTick := by
  unfold State.skipIf; split <;> rfl
@[simp] theorem skipIf_keyHandler (s : State) (c : Bool) : (s.skipIf c).keyHandler = s.keyHandler := by
  unfold State.skipIf; split <;> rfl
@[simp] theorem skipIf_displayHandler (s : State) (c : Bool) : (s.skipIf c).displayHandler = s.displayHandler := by
  unfold State.skipIf; split <;> rfl
@[simp] theorem skipIf_returned (s : State) (c : Bool) : (s.skipIf c).returned = s.returned := by
  unfold State.skipIf; split <;> rfl
@[simp] theorem skipIf_notifications (s : State) (c : Bool) : (s.skipIf c).notifications = s.notifications := by
  unfold State.skipIf; split <;> rfl
@[simp] theorem skipIf_handlerCalls (s : State) (c : Bool) : (s.skipIf c).handlerCalls = s.handlerCalls := by
  unfold State.skipIf; split <;> rfl
@[simp] theorem skipIf_randomDraws (s : State) (c : Bool) : (s.skipIf c).randomDraws = s.randomDraws := by
  unfold State.skipIf; split <;> rfl
@[simp] theorem skipIf_tickDraws (s : State) (c : Bool) : (s.skipIf c).tickDraws = s.tickDraws := by
  unfold State.skipIf; split <;> rfl
@[simp] theorem reg_skipIf (s : State) (c : Bool) (k : RegIdx) : (s.skipIf c).reg k = s.reg k := by
  simp [State.reg]
@[simp] theorem readByte_skipIf (s : State) (c : Bool) (addr : Nat) : (s.skipIf c).readByte addr = s.readByte addr := by
  simp [State.readByte]

/-! ## setFlagAndResult: what it leaves -/

@[simp] theorem setFlagAndResult_mem (s : State) (o : FlagOrder) (x : RegIdx) (f r : Byte) : (s.setFlagAndResult o x f r).mem = s.mem := by
  cases o <;> rfl
@[simp] theorem setFlagAndResult_i (s : State) (o : FlagOrder) (x : RegIdx) (f r : Byte) : (s.setFlagAndResult o x f r).i = s.i := by
  cases o <;> rfl
@[simp] theorem setFlagAndResult_pc (s : State) (o : FlagOrder) (x : RegIdx) (f r : Byte) : (s.setFlagAndResult o x f r).pc = s.pc := by
  cases o <;> rfl
@[simp] theorem setFlagAndResult_stack (s : State) (o : FlagOrder) (x : RegIdx) (f r : Byte) : (s.setFlagAndResult o x f r).stack = s.stack := by
  cases o <;> rfl
@[simp] theorem setFlagAndResult_sp (s : State) (o : FlagOrder) (x : RegIdx) (f r : Byte) : (s.setFlagAndResult o x f r).sp = s.sp := by
  cases o <;> rfl
@[simp] theorem setFlagAndResult_dt (s : State) (o : FlagOrder) (x : RegIdx) (f r : Byte) : (s.setFlagAndResult o x f r).dt = s.dt := by
  cases o <;> rfl
@[simp] theorem setFlagAndResult_st (s : State) (o : FlagOrder) (x : RegIdx) (f r : Byte) : (s.setFlagAndResult o x f r).st = s.st := by
  cases o <;> rfl
@[simp] theorem setFlagAndResult_keys (s : State) (o : FlagOrder) (x : RegIdx) (f r : Byte) : (s.setFlagAndResult o x f r).keys = s.keys := by
  cases o <;> rfl
@[simp] theorem setFlagAndResult_pix (s : State) (o : FlagOrder) (x : RegIdx) (f r : Byte) : (s.setFlagAndResult o x f r).pix = s.pix := by
  cases o <;> rfl
@[simp] theorem setFlagAndResult_mode (s : State) (o : FlagOrder) (x : RegIdx) (f r : Byte) : (s.setFlagAndResult o x f r).mode = s.mode := by
  cases o <;> rfl
@[simp] theorem setFlagAndResult_fault (s : State) (o : FlagOrder) (x : RegIdx) (f r : Byte) : (s.setFlagAndResult o x f r).fault = s.fault := by
  cases o <;> rfl
@[simp] theorem setFlagAndResult_lastTick (s : State) (o : FlagOrder) (x : RegIdx) (f r : Byte) : (s.setFlagAndResult o x f r).lastTick = s.lastTick := by
  cases o <;> rfl
@[simp] theorem setFlagAndResult_keyHandler (s : State) (o : FlagOrder) (x : RegIdx) (f r : Byte) : (s.setFlagAndResult o x f r).keyHandler = s.keyHandler := by
  cases o <;> rfl
@[simp] theorem setFlagAndResult_displayHandler (s : State) (o : FlagOrder) (x : RegIdx) (f r : Byte) : (s.setFlagAndResult o x f r).displayHandler = s.displayHandler := by
  cases o <;> rfl
@[simp] theorem setFlagAndResult_returned (s : State) (o : FlagOrder) (x : RegIdx) (f r : Byte) : (s.setFlagAndResult o x f r).returned = s.returned := by
  cases o <;> rfl
@[simp] theorem setFlagAndResult_notifications (s : State) (o : FlagOrder) (x : RegIdx) (f r : Byte) : (s.setFlagAndResult o x f r).notifications = s.notifications := by
  cases o <;> rfl
@[simp] theorem setFlagAndResult_handlerCalls (s : State) (o : FlagOrder) (x : RegIdx) (f r : Byte) : (s.setFlagAndResult o x f r).handlerCalls = s.handlerCalls := by
  cases o <;> rfl
@[simp] theorem setFlagAndResult_randomDraws (s : State) (o : FlagOrder) (x : RegIdx) (f r : Byte) : (s.setFlagAndResult o x f r).randomDraws = s.randomDraws := by
  cases o <;> rfl
@[simp] theorem setFlagAndResult_tickDraws (s : State) (o : FlagOrder) (x : RegIdx) (f r : Byte) : (s.setFlagAndResult o x f r).tickDraws = s.tickDraws := by
  cases o <;> rfl
@[simp] theorem readByte_setFlagAndResult (s : State) (o : FlagOrder) (x : RegIdx) (f r : Byte) (addr : Nat) : (s.setFlagAndResult o x f r).readByte addr = s.readByte addr := by
  simp [State.readByte]

/-! ## bulkIndex: what it leaves -/

@[simp] theorem bulkIndex_mem (s : State) (p : Params) (n : Nat) : (s.bulkIndex p n).mem = s.mem := by
  unfold State.bulkIndex; split <;> rfl
@[simp] theorem bulkIndex_v (s : State) (p : Params) (n : Nat) : (s.bulkIndex p n).v = s.v := by
  unfold State.bulkIndex; split <;> rfl
@[simp] theorem bulkIndex_pc (s : State) (p : Params) (n : Nat) : (s.bulkIndex p n).pc = s.pc := by
  unfold State.bulkIndex; split <;> rfl
@[simp] theorem bulkIndex_stack (s : State) (p : Params) (n : Nat) : (s.bulkIndex p n).stack = s.stack := by
  unfold State.bulkIndex; split <;> rfl
@[simp] theorem bulkIndex_sp (s : State) (p : Params) (n : Nat) : (s.bulkIndex p n).sp = s.sp := by
  unfold State.bulkIndex; split <;> rfl
@[simp] theorem bulkIndex_dt (s : State) (p : Params) (n : Nat) : (s.bulkIndex p n).dt = s.dt := by
  unfold State.bulkIndex; split <;> rfl
@[simp] theorem bulkIndex_st (s : State) (p : Params) (n : Nat) : (s.bulkIndex p n).st = s.st := by
  unfold State.bulkIndex; split <;> rfl
@[simp] theorem bulkIndex_keys (s : State) (p : Params) (n : Nat) : (s.bulkIndex p n).keys = s.keys := by
  unfold State.bulkIndex; split <;> rfl
@[simp] theorem bulkIndex_pix (s : State) (p : Params) (n : Nat) : (s.bulkIndex p n).pix = s.pix := by
  unfold State.bulkIndex; split <;> rfl
@[simp] theorem bulkIndex_mode (s : State) (p : Params) (n : Nat) : (s.bulkIndex p n).mode = s.mode := by
  unfold State.bulkIndex; split <;> rfl
@[simp] theorem bulkIndex_fault (s : State) (p : Params) (n : Nat) : (s.bulkIndex p n).fault = s.fault := by
  unfold State.bulkIndex; split <;> rfl
@[simp] theorem bulkIndex_lastTick (s : State) (p : Params) (n : Nat) : (s.bulkIndex p n).lastTick = s.lastTick := by
  unfold State.bulkIndex; split <;> rfl
@[simp] theorem bulkIndex_keyHandler (s : State) (p : Params) (n : Nat) : (s.bulkIndex p n).keyHandler = s.keyHandler := by
  unfold State.bulkIndex; split <;> rfl
@[simp] theorem bulkIndex_displayHandler (s : State) (p : Params) (n : Nat) : (s.bulkIndex p n).displayHandler = s.displayHandler := by
  unfold State.bulkIndex; split <;> rfl
@[simp] theorem bulkIndex_returned (s : State) (p : Params) (n : Nat) : (s.bulkIndex p n).returned = s.returned := by
  unfold State.bulkIndex; split <;> rfl
@[simp] theorem bulkIndex_notifications (s : State) (p : Params) (n : Nat) : (s.bulkIndex p n).notifications = s.notifications := by
  unfold State.bulkIndex; split <;> rfl
@[simp] theorem bulkIndex_handlerCalls (s : State) (p : Params) (n : Nat) : (s.bulkIndex p n).handlerCalls = s.handlerCalls := by
  unfold State.bulkIndex; split <;> rfl
@[simp] theorem bulkIndex_randomDraws (s : State) (p : Params) (n : Nat) : (s.bulkIndex p n).randomDraws = s.randomDraws := by
  unfold State.bulkIndex; split <;> rfl
@[simp] theorem bulkIndex_tickDraws (s : State) (p : Params) (n : Nat) : (s.bulkIndex p n).tickDraws = s.tickDraws := by
  unfold State.bulkIndex; split <;> rfl
@[simp] theorem reg_bulkIndex (s : State) (p : Params) (n : Nat) (k : RegIdx) : (s.bulkIndex p n).reg k = s.reg k := by
  simp [State.reg]
@[simp] theorem readByte_bulkIndex (s : State) (p : Params) (n : Nat) (addr : Nat) : (s.bulkIndex p n).readByte addr = s.readByte addr := by
  simp [State.readByte]

/-! ## storeRegs: what it leaves -/

@[simp] theorem storeRegs_v (s : State) (n : Nat) : (s.storeRegs n).v = s.v := by
  induction n with
  | zero => rfl
  | succ n ih => exact ih
@[simp] theorem storeRegs_i (s : State) (n : Nat) : (s.storeRegs n).i = s.i := by
  induction n with
  | zero => rfl
  | succ n ih => exact ih
@[simp] theorem storeRegs_pc (s : State) (n : Nat) : (s.storeRegs n).pc = s.pc := by
  induction n with
  | zero => rfl
  | succ n ih => exact ih
@[simp] theorem storeRegs_stack (s : State) (n : Nat) : (s.storeRegs n).stack = s.stack := by
  induction n with
  | zero => rfl
  | succ n ih => exact ih
@[simp] theorem storeRegs_sp (s : State) (n : Nat) : (s.storeRegs n).sp = s.sp := by
  induction n with
  | zero => rfl
  | succ n ih => exact ih
@[simp] theorem storeRegs_dt (s : State) (n : Nat) : (s.storeRegs n).dt = s.dt := by
  induction n with
  | zero => rfl
  | succ n ih => exact ih
@[simp] theorem storeRegs_st (s : State) (n : Nat) : (s.storeRegs n).st = s.st := by
  induction n with
  | zero => rfl
  | succ n ih => exact ih
@[simp] theorem storeRegs_keys (s : State) (n : Nat) : (s.storeRegs n).keys = s.keys := by
  induction n with
  | zero => rfl
  | succ n ih => exact ih
@[simp] theorem storeRegs_pix (s : State) (n : Nat) : (s.storeRegs n).pix = s.pix := by
  induction n with
  | zero => rfl
  | succ n ih => exact ih
@[simp] theorem storeRegs_mode (s : State) (n : Nat) : (s.storeRegs n).mode = s.mode := by
  induction n with
  | zero => rfl
  | succ n ih => exact ih
@[simp] theorem storeRegs_fault (s : State) (n : Nat) : (s.storeRegs n).fault = s.fault := by
  induction n with
  | zero => rfl
  | succ n ih => exact ih
@[simp] theorem storeRegs_lastTick (s : State) (n : Nat) : (s.storeRegs n).lastTick = s.lastTick := by
  induction n with
  | zero => rfl
  | succ n ih => exact ih
@[simp] theorem storeRegs_keyHandler (s : State) (n : Nat) : (s.storeRegs n).keyHandler = s.keyHandler := by
  induction n with
  | zero => rfl
  | succ n ih => exact ih
@[simp] theorem storeRegs_displayHandler (s : State) (n : Nat) : (s.storeRegs n).displayHandler = s.displayHandler := by
  induction n with
  | zero => rfl
  | succ n ih => exact ih
@[simp] theorem storeRegs_returned (s : State) (n : Nat) : (s.storeRegs n).returned = s.returned := by
  induction n with
  | zero => rfl
  | succ n ih => exact ih
@[simp] theorem storeRegs_notifications (s : State) (n : Nat) : (s.storeRegs n).notifications = s.notifications := by
  induction n with
  | zero => rfl
  | succ n ih => exact ih
@[simp] theorem storeRegs_handlerCalls (s : State) (n : Nat) : (s.storeRegs n).handlerCalls = s.handlerCalls := by
  induction n with
  | zero => rfl
  | succ n ih => exact ih
@[simp] theorem storeRegs_randomDraws (s : State) (n : Nat) : (s.storeRegs n).randomDraws = s.randomDraws := by
  induction n with
  | zero => rfl
  | succ n ih => exact ih
@[simp] theorem storeRegs_tickDraws (s : State) (n : Nat) : (s.storeRegs n).tickDraws = s.tickDraws := by
  induction n with
  | zero => rfl
  | succ n ih => exact ih
@[simp] theorem reg_storeRegs (s : State) (n : Nat) (k : RegIdx) : (s.storeRegs n).reg k = s.reg k := by
  simp [State.reg]

/-! ## loadRegs: what it leaves -/

@[simp] theorem loadRegs_mem (s : State) (n : Nat) : (s.loadRegs n).mem = s.mem := by
  induction n with
  | zero => rfl
  | succ n ih => exact ih
@[simp] theorem loadRegs_i (s : State) (n : Nat) : (s.loadRegs n).i = s.i := by
  induction n with
  | zero => rfl
  | succ n ih => exact ih
@[simp] theorem loadRegs_pc (s : State) (n : Nat) : (s.loadRegs n).pc = s.pc := by
  induction n with
  | zero => rfl
  | succ n ih => exact ih
@[simp] theorem loadRegs_stack (s : State) (n : Nat) : (s.loadRegs n).stack = s.stack := by
  induction n with
  | zero => rfl
  | succ n ih => exact ih
@[simp] theorem loadRegs_sp (s : State) (n : Nat) : (s.loadRegs n).sp = s.sp := by
  induction n with
  | zero => rfl
  | succ n ih => exact ih
@[simp] theorem loadRegs_dt (s : State) (n : Nat) : (s.loadRegs n).dt = s.dt := by
  induction n with
  | zero => rfl
  | succ n ih => exact ih
@[simp] theorem loadRegs_st (s : State) (n : Nat) : (s.loadRegs n).st = s.st := by
  induction n with
  | zero => rfl
  | succ n ih => exact ih
@[simp] theorem loadRegs_keys (s : State) (n : Nat) : (s.loadRegs n).keys = s.keys := by
  induction n with
  | zero => rfl
  | succ n ih => exact ih
@[simp] theorem loadRegs_pix (s : State) (n : Nat) : (s.loadRegs n).pix = s.pix := by
  induction n with
  | zero => rfl
  | succ n ih => exact ih
@[simp] theorem loadRegs_mode (s : State) (n : Nat) : (s.loadRegs n).mode = s.mode := by
  induction n with
  | zero => rfl
  | succ n ih => exact ih
@[simp] theorem loadRegs_fault (s : State) (n : Nat) : (s.loadRegs n).fault = s.fault := by
  induction n with
  | zero => rfl
  | succ n ih => exact ih
@[simp] theorem loadRegs_lastTick (s : State) (n : Nat) : (s.loadRegs n).lastTick = s.lastTick := by
  induction n with
  | zero => rfl
  | succ n ih => exact ih
@[simp] theorem loadRegs_keyHandler (s : State) (n : Nat) : (s.loadRegs n).keyHandler = s.keyHandler := by
  induction n with
  | zero => rfl
  | succ n ih => exact ih
@[simp] theorem loadRegs_displayHandler (s : State) (n : Nat) : (s.loadRegs n).displayHandler = s.displayHandler := by
  induction n with
  | zero => rfl
  | succ n ih => exact ih
@[simp] theorem loadRegs_returned (s : State) (n : Nat) : (s.loadRegs n).returned = s.returned := by
  induction n with
  | zero => rfl
  | succ n ih => exact ih
@[simp] theorem loadRegs_notifications (s : State) (n : Nat) : (s.loadRegs n).notifications = s.notifications := by
  induction n with
  | zero => rfl
  | succ n ih => exact ih
@[simp] theorem loadRegs_handlerCalls (s : State) (n : Nat) : (s.loadRegs n).handlerCalls = s.handlerCalls := by
  induction n with
  | zero => rfl
  | succ n ih => exact ih
@[simp] theorem loadRegs_randomDraws (s : State) (n : Nat) : (s.loadRegs n).randomDraws = s.randomDraws := by
  induction n with
  | zero => rfl
  | succ n ih => exact ih
@[simp] theorem loadRegs_tickDraws (s : State) (n : Nat) : (s.loadRegs n).tickDraws = s.tickDraws := by
  induction n with
  | zero => rfl
  | succ n ih => exact ih
@[simp] theorem readByte_loadRegs (s : State) (n : Nat) (addr : Nat) : (s.loadRegs n).readByte addr = s.readByte addr := by
  simp [State.readByte]

/-! ## storeDigits: what it leaves -/

@[simp] theorem storeDigits_v (s : State) (x : RegIdx) : (s.storeDigits x).v = s.v := rfl
@[simp] theorem storeDigits_i (s : State) (x : RegIdx) : (s.storeDigits x).i = s.i := rfl
@[simp] theorem storeDigits_pc (s : State) (x : RegIdx) : (s.storeDigits x).pc = s.pc := rfl
@[simp] theorem storeDigits_stack (s : State) (x : RegIdx) : (s.storeDigits x).stack = s.stack := rfl
@[simp] theorem storeDigits_sp (s : State) (x : RegIdx) : (s.storeDigits x).sp = s.sp := rfl
@[simp] theorem storeDigits_dt (s : State) (x : RegIdx) : (s.storeDigits x).dt = s.dt := rfl
@[simp] theorem storeDigits_st (s : State) (x : RegIdx) : (s.storeDigits x).st = s.st := rfl
@[simp] theorem storeDigits_keys (s : State) (x : RegIdx) : (s.storeDigits x).keys = s.keys := rfl
@[simp] theorem storeDigits_pix (s : State) (x : RegIdx) : (s.storeDigits x).pix = s.pix := rfl
@[simp] theorem storeDigits_mode (s : State) (x : RegIdx) : (s.storeDigits x).mode = s.mode := rfl
@[simp] theorem storeDigits_fault (s : State) (x : RegIdx) : (s.storeDigits x).fault = s.fault := rfl
@[simp] theorem storeDigits_lastTick (s : State) (x : RegIdx) : (s.storeDigits x).lastTick = s.lastTick := rfl
@[simp] theorem storeDigits_keyHandler (s : State) (x : RegIdx) : (s.storeDigits x).keyHandler = s.keyHandler := rfl
@[simp] theorem storeDigits_displayHandler (s : State) (x : RegIdx) : (s.storeDigits x).displayHandler = s.displayHandler := rfl
@[simp] theorem storeDigits_returned (s : State) (x : RegIdx) : (s.storeDigits x).returned = s.returned := rfl
@[simp] theorem storeDigits_notifications (s : State) (x : RegIdx) : (s.storeDigits x).notifications = s.notifications := rfl
@[simp] theorem storeDigits_handlerCalls (s : State) (x : RegIdx) : (s.storeDigits x).handlerCalls = s.handlerCalls := rfl
@[simp] theorem storeDigits_randomDraws (s : State) (x : RegIdx) : (s.storeDigits x).randomDraws = s.randomDraws := rfl
@[simp] theorem storeDigits_tickDraws (s : State) (x : RegIdx) : (s.storeDigits x).tickDraws = s.tickDraws := rfl
@[simp] theorem reg_storeDigits (s : State) (x : RegIdx) (k : RegIdx) : (s.storeDigits x).reg k = s.reg k := by
  simp [State.reg]

/-! ## awaitKey: what it leaves -/

@[simp] theorem awaitKey_mem (s : State) (x : RegIdx) : (s.awaitKey x).mem = s.mem := by
  unfold State.awaitKey; split <;> rfl
@[simp] theorem awaitKey_i (s : State) (x : RegIdx) : (s.awaitKey x).i = s.i := by
  unfold State.awaitKey; split <;> rfl
@[simp] theorem awaitKey_pc (s : State) (x : RegIdx) : (s.awaitKey x).pc = s.pc := by
  unfold State.awaitKey; split <;> rfl
@[simp] theorem awaitKey_stack (s : State) (x : RegIdx) : (s.awaitKey x).stack = s.stack := by
  unfold State.awaitKey; split <;> rfl
@[simp] theorem awaitKey_sp (s : State) (x : RegIdx) : (s.awaitKey x).sp = s.sp := by
  unfold State.awaitKey; split <;> rfl
@[simp] theorem awaitKey_dt (s : State) (x : RegIdx) : (s.awaitKey x).dt = s.dt := by
  unfold State.awaitKey; split <;> rfl
@[simp] theorem awaitKey_st (s : State) (x : RegIdx) : (s.awaitKey x).st = s.st := by
  unfold State.awaitKey; split <;> rfl
@[simp] theorem awaitKey_keys (s : State) (x : RegIdx) : (s.awaitKey x).keys = s.keys := by
  unfold State.awaitKey; split <;> rfl
@[simp] theorem awaitKey_pix (s : State) (x : RegIdx) : (s.awaitKey x).pix = s.pix := by
  unfold State.awaitKey; split <;> rfl
@[simp] theorem awaitKey_fault (s : State) (x : RegIdx) : (s.awaitKey x).fault = s.fault := by
  unfold State.awaitKey; split <;> rfl
@[simp] theorem awaitKey_lastTick (s : State) (x : RegIdx) : (s.awaitKey x).lastTick = s.lastTick := by
  unfold State.awaitKey; split <;> rfl
@[simp] theorem awaitKey_displayHandler (s : State) (x : RegIdx) : (s.awaitKey x).displayHandler = s.displayHandler := by
  unfold State.awaitKey; split <;> rfl
@[simp] theorem awaitKey_returned (s : State) (x : RegIdx) : (s.awaitKey x).returned = s.returned := by
  unfold State.awaitKey; split <;> rfl
@[simp] theorem awaitKey_notifications (s : State) (x : RegIdx) : (s.awaitKey x).notifications = s.notifications := by
  unfold State.awaitKey; split <;> rfl
@[simp] theorem awaitKey_handlerCalls (s : State) (x : RegIdx) : (s.awaitKey x).handlerCalls = s.handlerCalls := by
  unfold State.awaitKey; split <;> rfl
@[simp] theorem awaitKey_randomDraws (s : State) (x : RegIdx) : (s.awaitKey x).randomDraws = s.randomDraws := by
  unfold State.awaitKey; split <;> rfl
@[simp] theorem awaitKey_tickDraws (s : State) (x : RegIdx) : (s.awaitKey x).tickDraws = s.tickDraws := by
  unfold State.awaitKey; split <;> rfl
@[simp] theorem readByte_awaitKey (s : State) (x : RegIdx) (addr : Nat) : (s.awaitKey x).readByte addr = s.readByte addr := by
  simp [State.readByte]

/-! ## drawSprite: what it leaves -/

@[simp] theorem drawSprite_mem (s : State) (x y : RegIdx) (n : Nat) : (s.drawSprite x y n).mem = s.mem := rfl
@[simp] theorem drawSprite_i (s : State) (x y : RegIdx) (n : Nat) : (s.drawSprite x y n).i = s.i := rfl
@[simp] theorem drawSprite_pc (s : State) (x y : RegIdx) (n : Nat) : (s.drawSprite x y n).pc = s.pc := rfl
@[simp] theorem drawSprite_stack (s : State) (x y : RegIdx) (n : Nat) : (s.drawSprite x y n).stack = s.stack := rfl
@[simp] theorem drawSprite_sp (s : State) (x y : RegIdx) (n : Nat) : (s.drawSprite x y n).sp = s.sp := rfl
@[simp] theorem drawSprite_dt (s : State) (x y : RegIdx) (n : Nat) : (s.drawSprite x y n).dt = s.dt := rfl
@[simp] theorem drawSprite_st (s : State) (x y : RegIdx) (n : Nat) : (s.drawSprite x y n).st = s.st := rfl
@[simp] theorem drawSprite_keys (s : State) (x y : RegIdx) (n : Nat) : (s.drawSprite x y n).keys = s.keys := rfl
@[simp] theorem drawSprite_mode (s : State) (x y : RegIdx) (n : Nat) : (s.drawSprite x y n).mode = s.mode := rfl
@[simp] theorem drawSprite_fault (s : State) (x y : RegIdx) (n : Nat) : (s.drawSprite x y n).fault = s.fault := rfl
@[simp] theorem drawSprite_lastTick (s : State) (x y : RegIdx) (n : Nat) : (s.drawSprite x y n).lastTick = s.lastTick := rfl
@[simp] theorem drawSprite_keyHandler (s : State) (x y : RegIdx) (n : Nat) : (s.drawSprite x y n).keyHandler = s.keyHandler := rfl
@[simp] theorem drawSprite_displayHandler (s : State) (x y : RegIdx) (n : Nat) : (s.drawSprite x y n).displayHandler = s.displayHandler := rfl
@[simp] theorem drawSprite_returned (s : State) (x y : RegIdx) (n : Nat) : (s.drawSprite x y n).returned = s.returned := rfl
@[simp] theorem drawSprite_randomDraws (s : State) (x y : RegIdx) (n : Nat) : (s.drawSprite x y n).randomDraws = s.randomDraws := rfl
@[simp] theorem drawSprite_tickDraws (s : State) (x y : RegIdx) (n : Nat) : (s.drawSprite x y n).tickDraws = s.tickDraws := rfl
@[simp] theorem readByte_drawSprite (s : State) (x y : RegIdx) (n : Nat) (addr : Nat) : (s.drawSprite x y n).readByte addr = s.readByte addr := by
  simp [State.readByte]

/-! ## endCycle: what it leaves -/

@[simp] theorem endCycle_mem (s : State) : (s.endCycle).mem = s.mem := by
  unfold State.endCycle; split <;> rfl
@[simp] theorem endCycle_v (s : State) : (s.endCycle).v = s.v := by
  unfold State.endCycle; split <;> rfl
@[simp] theorem endCycle_i (s : State) : (s.endCycle).i = s.i := by
  unfold State.endCycle; split <;> rfl
@[simp] theorem endCycle_pc (s : State) : (s.endCycle).pc = s.pc := by
  unfold State.endCycle; split <;> rfl
@[simp] theorem endCycle_stack (s : State) : (s.endCycle).stack = s.stack := by
  unfold State.endCycle; split <;> rfl
@[simp] theorem endCycle_sp (s : State) : (s.endCycle).sp = s.sp := by
  unfold State.endCycle; split <;> rfl
@[simp] theorem endCycle_keys (s : State) : (s.endCycle).keys = s.keys := by
  unfold State.endCycle; split <;> rfl
@[simp] theorem endCycle_pix (s : State) : (s.endCycle).pix = s.pix := by
  unfold State.endCycle; split <;> rfl
@[simp] theorem endCycle_mode (s : State) : (s.endCycle).mode = s.mode := by
  unfold State.endCycle; split <;> rfl
@[simp] theorem endCycle_fault (s : State) : (s.endCycle).fault = s.fault := by
  unfold State.endCycle; split <;> rfl
@[simp] theorem endCycle_keyHandler (s : State) : (s.endCycle).keyHandler = s.keyHandler := by
  unfold State.endCycle; split <;> rfl
@[simp] theorem endCycle_displayHandler (s : State) : (s.endCycle).displayHandler = s.displayHandler := by
  unfold State.endCycle; split <;> rfl
@[simp] theorem endCycle_returned (s : State) : (s.endCycle).returned = s.returned := by
  unfold State.endCycle; split <;> rfl
@[simp] theorem endCycle_notifications (s : State) : (s.endCycle).notifications = s.notifications := by
  unfold State.endCycle; split <;> rfl
@[simp] theorem endCycle_handlerCalls (s : State) : (s.endCycle).handlerCalls = s.handlerCalls := by
  unfold State.endCycle; split <;> rfl
@[simp] theorem endCycle_randomDraws (s : State) : (s.endCycle).randomDraws = s.randomDraws := by
  unfold State.endCycle; split <;> rfl
@[simp] theorem reg_endCycle (s : State) (k : RegIdx) : (s.endCycle).reg k = s.reg k := by
  simp [State.reg]
@[simp] theorem readByte_endCycle (s : State) (addr : Nat) : (s.endCycle).readByte addr = s.readByte addr := by
  simp [State.readByte]

end Sys2Proof.Machine
end

