-- ==== Sys2Proof/Laws/Memory.lean ====
section
/-! SUPPORT. The laws of memory: a read after a write, and the canonical form every operation keeps. -/

namespace Sys2Proof.Machine

namespace Memory

/-! ## Reads -/

@[simp] theorem read_nil (a : Nat) : read a [] = background a := rfl

@[simp] theorem read_cons (a k : Nat) (b : Byte) (m : Memory) :
    read a ((k, b) :: m) = if a = k then b else read a m := rfl

/-- A cell list whose addresses all lie above a reads the reset contents at a. -/
theorem read_of_lt {lo a : Nat} {m : Memory} (h : wfFrom lo m = true) (ha : a < lo) : read a m = background a := by
  induction m generalizing lo with
  | nil => rfl
  | cons c m ih =>
    obtain ⟨k, b⟩ := c
    simp only [wfFrom, Bool.and_eq_true, decide_eq_true_eq] at h
    rw [read_cons, if_neg (by omega), ih h.2 (by omega)]

theorem wfFrom_mono {lo lo' : Nat} {m : Memory} (h : wfFrom lo m = true) (hl : lo' ≤ lo) : wfFrom lo' m = true := by
  cases m with
  | nil => rfl
  | cons c m =>
    obtain ⟨k, b⟩ := c
    simp only [wfFrom, Bool.and_eq_true, decide_eq_true_eq] at h ⊢
    exact ⟨⟨⟨by omega, h.1.1.2⟩, h.1.2⟩, h.2⟩

/-! ## Insert -/

theorem wfFrom_insert {lo a : Nat} (b : Byte) {m : Memory} (h : wfFrom lo m = true) (hlo : lo ≤ a) (ha : a < memSize) :
    wfFrom lo (insert a b m) = true := by
  induction m generalizing lo with
  | nil =>
    unfold insert
    split
    · rfl
    · simp [wfFrom, *]
  | cons c m ih =>
    obtain ⟨k, d⟩ := c
    have h' := h
    simp only [wfFrom, Bool.and_eq_true, decide_eq_true_eq] at h
    unfold insert
    split_ifs with h1 h2 h3 h4
    · exact h'
    · simp only [wfFrom, Bool.and_eq_true, decide_eq_true_eq]
      exact ⟨⟨⟨hlo, ha⟩, h2⟩, ⟨⟨by omega, h.1.1.2⟩, h.1.2⟩, h.2⟩
    · exact wfFrom_mono h.2 (by omega)
    · subst h3
      simp only [wfFrom, Bool.and_eq_true, decide_eq_true_eq]
      exact ⟨⟨⟨hlo, ha⟩, h4⟩, h.2⟩
    · simp only [wfFrom, Bool.and_eq_true, decide_eq_true_eq]
      exact ⟨h.1, ih h.2 (by omega)⟩

theorem read_insert_same {lo a : Nat} (b : Byte) {m : Memory} (h : wfFrom lo m = true) : read a (insert a b m) = b := by
  induction m generalizing lo with
  | nil =>
    unfold insert
    split
    · simp [*]
    · simp
  | cons c m ih =>
    obtain ⟨k, d⟩ := c
    simp only [wfFrom, Bool.and_eq_true, decide_eq_true_eq] at h
    unfold insert
    split_ifs with h1 h2 h3 h4
    · rw [read_cons, if_neg (by omega), read_of_lt h.2 (by omega), h2]
    · simp
    · rw [read_of_lt h.2 (by omega), h4]
    · simp
    · rw [read_cons, if_neg h3, ih h.2]

theorem read_insert_ne {a a' : Nat} (b : Byte) (m : Memory) (hne : a' ≠ a) :
    read a' (insert a b m) = read a' m := by
  induction m with
  | nil =>
    unfold insert
    split
    · rfl
    · simp [hne]
  | cons c m ih =>
    obtain ⟨k, d⟩ := c
    unfold insert
    split_ifs with h1 h2 h3 h4
    · rfl
    · rw [read_cons, if_neg hne]
    · subst h3
      simp [hne]
    · subst h3
      simp [hne]
    · rw [read_cons, read_cons, ih]

/-! ## Write -/

/-- Every write keeps the canonical form. -/
theorem wf_write (a : Nat) (b : Byte) {m : Memory} (h : wf m = true) : wf (write a b m) = true := by
  unfold write
  split
  · exact wfFrom_insert b h (Nat.zero_le a) ‹_›
  · exact h

/-- A read after a write to the same address gives the byte written. -/
theorem read_write_same {a : Nat} (b : Byte) {m : Memory} (h : wf m = true) (ha : a < memSize) :
    read a (write a b m) = b := by
  rw [write, if_pos ha, read_insert_same b h]

/-- A write leaves every other address alone. -/
theorem read_write_ne {a a' : Nat} (b : Byte) (m : Memory) (hne : a' ≠ a) :
    read a' (write a b m) = read a' m := by
  unfold write
  split
  · exact read_insert_ne b m hne
  · rfl

/-! ## Blocks of bytes -/

theorem wf_writeAll (a : Nat) (l : List Byte) {m : Memory} (h : wf m = true) : wf (writeAll a l m) = true := by
  induction l generalizing a m with
  | nil => exact h
  | cons b l ih => exact ih (a + 1) (wf_write a b h)

theorem read_writeAll_outside (a : Nat) (l : List Byte) (m : Memory) (a' : Nat)
    (ho : a' < a ∨ a + l.length ≤ a') : read a' (writeAll a l m) = read a' m := by
  induction l generalizing a m with
  | nil => rfl
  | cons b l ih =>
    rw [List.length_cons] at ho
    rw [writeAll, ih (a + 1) _ (by omega), read_write_ne b m (by omega)]

theorem read_writeAll_inside (a : Nat) (l : List Byte) {m : Memory} (h : wf m = true) (k : Nat) (hk : k < l.length)
    (hm : a + l.length ≤ memSize) : read (a + k) (writeAll a l m) = l[k] := by
  induction l generalizing a m k with
  | nil => simp at hk
  | cons b l ih =>
    rw [List.length_cons] at hk hm
    rw [writeAll]
    cases k with
    | zero =>
      rw [read_writeAll_outside (a + 1) l _ _ (by omega), Nat.add_zero,
        read_write_same b h (by omega)]
      rfl
    | succ k =>
      have := ih (a + 1) (wf_write a b h) k (by omega) (by omega)
      rw [show a + (k + 1) = a + 1 + k by omega, this]
      rfl

end Memory

/-! ## The memory operations of the state -/

theorem wf_reset : Memory.wf State.reset.mem = true := rfl

theorem wf_writeByte (s : State) (a : Nat) (b : Byte) (h : Memory.wf s.mem = true) :
    Memory.wf (s.writeByte a b).mem = true := Memory.wf_write a b h

theorem readByte_writeByte_same (s : State) {a : Nat} (b : Byte) (h : Memory.wf s.mem = true) (ha : a < memSize) :
    (s.writeByte a b).readByte a = b := Memory.read_write_same b h ha

theorem readByte_writeByte_ne (s : State) {a a' : Nat} (b : Byte) (hne : a' ≠ a) :
    (s.writeByte a b).readByte a' = s.readByte a' := Memory.read_write_ne b s.mem hne

theorem wf_storeRegs (s : State) (n : Nat) (h : Memory.wf s.mem = true) : Memory.wf (s.storeRegs n).mem = true := by
  induction n with
  | zero => exact h
  | succ n ih => exact wf_writeByte _ _ _ ih

theorem wf_storeDigits (s : State) (x : RegIdx) (h : Memory.wf s.mem = true) :
    Memory.wf (s.storeDigits x).mem = true :=
  wf_writeByte _ _ _ (wf_writeByte _ _ _ (wf_writeByte _ _ _ h))

/-- A core constructed with any font has its memory in canonical form. -/
theorem wf_newCoreWith (p : Params) : Memory.wf (newCoreWith p).mem = true := Memory.wf_writeAll _ _ wf_reset

end Sys2Proof.Machine
end

