-- ==== Sys2Proof/Laws/Ops.lean ====
section
/-! SUPPORT. What each shared operation can do, said once: registers, flags, raising, checked access, transfers. -/

namespace Sys2Proof.Machine

/-! ## Registers -/

@[simp] theorem reg_setReg_same (s : State) (x : RegIdx) (b : Byte) : (s.setReg x b).reg x = b := by
  simp [State.reg, State.setReg]

theorem reg_setReg_ne (s : State) {x k : RegIdx} (b : Byte) (h : k ≠ x) : (s.setReg x b).reg k = s.reg k := by
  have : x.val ≠ k.val := fun e => h (Fin.ext e.symm)
  simp [State.reg, State.setReg, this]

theorem reg_setReg (s : State) (x k : RegIdx) (b : Byte) :
    (s.setReg x b).reg k = if k = x then b else s.reg k := by
  by_cases h : k = x
  · simp [h]
  · simp [h, reg_setReg_ne]

/-- The flag first and the result second: the destination ends with the result, VF with the flag if it is not the
destination, every other register as it was (10_state.md R33). -/
theorem reg_setFlagAndResult_flagThenResult (s : State) (x k : RegIdx) (f r : Byte) :
    (s.setFlagAndResult .flagThenResult x f r).reg k = if k = x then r else if k = vf then f else s.reg k := by
  simp only [State.setFlagAndResult, reg_setReg]

theorem reg_setFlagAndResult_resultThenFlag (s : State) (x k : RegIdx) (f r : Byte) :
    (s.setFlagAndResult .resultThenFlag x f r).reg k = if k = vf then f else if k = x then r else s.reg k := by
  simp only [State.setFlagAndResult, reg_setReg]

@[simp] theorem readByte_setFlagAndResult' (s : State) (o : FlagOrder) (x : RegIdx) (f r : Byte) (a : Nat) :
    (s.setFlagAndResult o x f r).readByte a = s.readByte a := by
  simp [State.readByte]

/-- An update of registers only is the update of the field `v`. -/
theorem setFlagAndResult_eq (s : State) (o : FlagOrder) (x : RegIdx) (f r : Byte) :
    s.setFlagAndResult o x f r = { s with v := (s.setFlagAndResult o x f r).v } := by
  cases o <;> rfl

/-! ## Flags as numbers -/

theorem toNat_flagByte (c : Bool) : (flagByte c).toNat = if c then 1 else 0 := by cases c <;> rfl

theorem toNat_carryFlag (a b : Byte) : (carryFlag a b).toNat = if a.toNat + b.toNat > 0xFF then 1 else 0 := by
  simp [carryFlag, toNat_flagByte]

theorem toNat_notBorrowFlag (a b : Byte) : (notBorrowFlag a b).toNat = if a.toNat > b.toNat then 1 else 0 := by
  simp [notBorrowFlag, toNat_flagByte]

theorem toNat_shrFlag (a : Byte) : (shrFlag a).toNat = a.toNat % 2 := by
  simp [shrFlag, BitVec.toNat_and, Nat.and_one_is_mod]

theorem toNat_shlFlag (a : Byte) : (shlFlag a).toNat = a.toNat / 128 := by
  have := a.isLt
  simp only [shlFlag, BitVec.toNat_and, BitVec.toNat_ushiftRight, Nat.shiftRight_eq_div_pow]
  have h : (1 : Byte).toNat = 1 := rfl
  rw [h, Nat.and_one_is_mod]
  omega

/-! ## Raising a fault -/

theorem enterFault_terminal (s : State) (f : Fault) (h : f.terminal = true) :
    s.enterFault f = { s with returned := some f, fault := some f } := by
  simp [State.enterFault, h]

theorem enterFault_decodeError (s : State) (op : Word) :
    s.enterFault (.decodeError op) = { s with returned := some (.decodeError op) } := rfl

theorem raise_eq (f : Fault) (s : State) : raise f s = .next (s.enterFault f) := rfl

/-- A fault is terminal exactly when it is not a DecodeError (60_exceptions.md R261). -/
theorem terminal_iff (f : Fault) : f.terminal = true ↔ ∀ op, f ≠ .decodeError op := by
  cases f <;> simp [Fault.terminal]

/-! ## Checked access -/

theorem accessOk_iff (s : State) (len : Nat) : s.accessOk len = true ↔ len = 0 ∨ s.i.toNat + len - 1 ≤ 0xFFF := by
  cases len <;> simp [State.accessOk, State.dataAddr]

theorem checkedAccess_ok {s : State} {len : Nat} (body : State → State) (h : s.accessOk len = true) :
    checkedAccess len body s = .next (body s) := by
  simp [checkedAccess, h]

theorem checkedAccess_fault {s : State} {len : Nat} (body : State → State) (h : s.accessOk len = false) :
    checkedAccess len body s
      = .next { s with returned := some (.memoryOutOfRange s.i len), fault := some (.memoryOutOfRange s.i len) } := by
  rw [checkedAccess, h]
  rfl

/-! ## Skips, operands -/

theorem skipIf_eq (s : State) (c : Bool) : s.skipIf c = { s with pc := if c then s.pc + 2 else s.pc } := by
  cases c <;> rfl

theorem toNat_zextNnn (nnn : BitVec 12) : (zextNnn nnn).toNat = nnn.toNat := by
  have := nnn.isLt
  simp [zextNnn, BitVec.toNat_setWidth]
  omega

theorem toNat_zextByte (b : Byte) : (zextByte b).toNat = b.toNat := by
  have := b.isLt
  simp [zextByte, BitVec.toNat_setWidth]
  omega

@[simp] theorem landing_params (nnn : BitVec 12) : landing Config.params nnn = zextNnn nnn :=
  BitVec.add_zero (zextNnn nnn)

theorem toNat_pc_add_two (pc : Word) (h : pc.toNat < 65534) : (pc + 2).toNat = pc.toNat + 2 := by
  rw [BitVec.toNat_add]
  have : (2 : Word).toNat = 2 := rfl
  omega

/-! ## The decimal digits -/

theorem toNat_hundreds (b : Byte) : (hundreds b).toNat = b.toNat / 100 := by
  have := b.isLt
  simp [hundreds]
  omega

theorem toNat_tens (b : Byte) : (tens b).toNat = b.toNat / 10 % 10 := by
  have := b.isLt
  simp [tens]
  omega

theorem toNat_ones (b : Byte) : (ones b).toNat = b.toNat % 10 := by
  have := b.isLt
  simp [ones]
  omega

/-! ## The bulk transfers -/

theorem regOfNat_val (k : RegIdx) : regOfNat k.val = k := by
  apply Fin.ext
  simp [regOfNat, Fin.ofNat]

/-- The bytes a bulk store writes. -/
theorem readByte_storeRegs_inside (s : State) (n k : Nat) (hw : Memory.wf s.mem = true) (hk : k < n)
    (hm : s.i.toNat + n ≤ memSize) : (s.storeRegs n).readByte (s.i.toNat + k) = s.reg (regOfNat k) := by
  induction n with
  | zero => omega
  | succ n ih =>
    rw [State.storeRegs]
    by_cases h : k = n
    · subst h
      exact readByte_writeByte_same _ _ (wf_storeRegs s k hw) (by rw [State.dataAddr]; omega)
    · rw [readByte_writeByte_ne _ _ (by rw [State.dataAddr]; omega)]
      exact ih (by omega) (by omega)

/-- A bulk store leaves every byte outside its range alone. -/
theorem readByte_storeRegs_outside (s : State) (n a : Nat) (h : a < s.i.toNat ∨ s.i.toNat + n ≤ a) :
    (s.storeRegs n).readByte a = s.readByte a := by
  induction n with
  | zero => rfl
  | succ n ih =>
    rw [State.storeRegs, readByte_writeByte_ne _ _ (by rw [State.dataAddr]; omega)]
    exact ih (by omega)

/-- The registers a bulk load writes, and those it leaves. -/
theorem reg_loadRegs (s : State) (n : Nat) (hn : n ≤ 16) (k : RegIdx) :
    (s.loadRegs n).reg k = if k.val < n then s.readByte (s.i.toNat + k.val) else s.reg k := by
  induction n with
  | zero => simp [State.loadRegs]
  | succ n ih =>
    rw [State.loadRegs, reg_setReg, ih (by omega)]
    have hv : (regOfNat n).val = n := by
      simp only [regOfNat, Fin.ofNat]
      omega
    by_cases h : k = regOfNat n
    · subst h
      simp [hv, State.dataAddr]
    · have : k.val ≠ n := fun e => h (Fin.ext (e.trans hv.symm))
      rw [if_neg h]
      by_cases h2 : k.val < n
      · rw [if_pos h2, if_pos (by omega)]
      · rw [if_neg h2, if_neg (by omega)]

theorem storeRegs_eq (s : State) (n : Nat) : s.storeRegs n = { s with mem := (s.storeRegs n).mem } := by
  induction n with
  | zero => rfl
  | succ n ih => rw [State.storeRegs, ih]; rfl

theorem loadRegs_eq (s : State) (n : Nat) : s.loadRegs n = { s with v := (s.loadRegs n).v } := by
  induction n with
  | zero => rfl
  | succ n ih => rw [State.loadRegs, ih]; rfl

@[simp] theorem bulkIndex_params (s : State) (n : Nat) : s.bulkIndex Config.params n = s := rfl

/-! ## Timers -/

theorem toNat_tickTimer (tick : Bool) (b : Byte) :
    (tickTimer tick b).toNat = if tick then b.toNat - 1 else b.toNat := by
  cases tick
  · simp [tickTimer]
  · by_cases h : b = 0
    · subst h
      rfl
    · have h0 : b.toNat ≠ 0 := fun e => h (BitVec.eq_of_toNat_eq (by simpa using e))
      have h1 : (1 : Byte).toNat = 1 := rfl
      have := b.isLt
      simp only [tickTimer, Bool.true_and, decide_not, Bool.not_eq_eq_eq_not, Bool.not_true,
        decide_eq_false_iff_not, h, not_false_eq_true, if_true, BitVec.toNat_sub, h1]
      omega

end Sys2Proof.Machine
end

