-- ==== Sys2Proof/Laws/Draw.lean ====
section
/-! SUPPORT. What the sprite blit does: which pixels it flips, and when it collides (44_display.md R220, R222). -/

namespace Sys2Proof.Machine

/-! ## One pixel -/

theorem get_flip (d : Display) (x px : Fin 64) (y py : Fin 32) :
    (d.flip x y).get px py = if px = x ∧ py = y then !(d.get x y) else d.get px py := by
  by_cases hy : py = y
  · subst hy
    by_cases hx : px = x
    · subst hx
      simp [Display.flip, Display.get]
    · have : x.val ≠ px.val := fun e => hx (Fin.ext e.symm)
      simp [Display.flip, Display.get, hx, this]
  · have : y.val ≠ py.val := fun e => hy (Fin.ext e.symm)
    simp [Display.flip, Display.get, hy, this]

/-- A flip changes the pixel it names and no other. -/
theorem flip_changes (d : Display) (x px : Fin 64) (y py : Fin 32) :
    (d.flip x y).get px py ≠ d.get px py ↔ px = x ∧ py = y := by
  rw [get_flip]
  by_cases h : px = x ∧ py = y
  · obtain ⟨rfl, rfl⟩ := h
    simp
  · simp [h]

/-- Two displays that show the same pixels are equal. -/
theorem display_ext {d e : Display} (h : ∀ px py, d.get px py = e.get px py) : d = e := by
  apply Vector.ext
  intro y hy
  apply Vector.ext
  intro x hx
  exact h ⟨x, hx⟩ ⟨y, hy⟩

@[simp] theorem get_clear (px : Fin 64) (py : Fin 32) : Display.clear.get px py = false := by
  simp [Display.clear, Display.get]

/-! ## Where the sprite lands -/

/-- The pixel is lit by a row byte at (x0, y). -/
def RowSets (b x0 : Byte) (y : Fin 32) (cols : Nat) (px : Fin 64) (py : Fin 32) : Prop :=
  py = y ∧ ∃ col, col < cols ∧ spriteBit b col = true ∧ px = columnOf x0 col

/-- The pixel is lit by the sprite's first n rows. -/
def RowsSet (s : State) (x0 y0 : Byte) (n : Nat) (px : Fin 64) (py : Fin 32) : Prop :=
  ∃ r, r < n ∧ RowSets (s.readByte (s.dataAddr r)) x0 (rowOf y0 r) 8 px py

theorem columnOf_inj (x0 : Byte) {a b : Nat} (ha : a < 8) (hb : b < 8) (h : columnOf x0 a = columnOf x0 b) : a = b := by
  have := congrArg Fin.val h
  simp only [columnOf, Fin.ofNat] at this
  omega

theorem rowOf_inj (y0 : Byte) {a b : Nat} (ha : a < 32) (hb : b < 32) (h : rowOf y0 a = rowOf y0 b) : a = b := by
  have := congrArg Fin.val h
  simp only [rowOf, Fin.ofNat] at this
  omega

/-- Bit (7 - col) of a row byte as the spec writes it (44_display.md R222). -/
theorem spriteBit_iff (b : Byte) (col : Nat) : spriteBit b col = true ↔ (b.toNat >>> (7 - col)) % 2 = 1 := by
  simp [spriteBit, BitVec.getLsbD, Nat.testBit, Nat.and_comm 1, Nat.and_one_is_mod]

/-- The pixels the blit lights are those of the spec's geometry. -/
theorem rowsSet_iff (s : State) (x0 y0 : Byte) (n : Nat) (px : Fin 64) (py : Fin 32) :
    RowsSet s x0 y0 n px py ↔ SpriteSets s x0 y0 n px py := by
  constructor
  · rintro ⟨r, hr, rfl, col, hc, hb, rfl⟩
    exact ⟨r, col, hr, hc, rfl, rfl, (spriteBit_iff _ _).1 hb⟩
  · rintro ⟨r, col, hr, hc, hx, hy, hb⟩
    exact ⟨r, hr, Fin.ext hy, col, hc, (spriteBit_iff _ _).2 hb, Fin.ext hx⟩

/-! ## One row -/

theorem drawCols_succ (b x0 : Byte) (y : Fin 32) (n : Nat) (c : Canvas) :
    Canvas.drawCols b x0 y (n + 1) c
      = if spriteBit b n then (Canvas.drawCols b x0 y n c).plot (columnOf x0 n) y else Canvas.drawCols b x0 y n c := rfl

/-- A row flips exactly the pixels it lights. -/
theorem drawCols_changes (b x0 : Byte) (y : Fin 32) (n : Nat) (hn : n ≤ 8) (c : Canvas) (px : Fin 64) (py : Fin 32) :
    (Canvas.drawCols b x0 y n c).pix.get px py ≠ c.pix.get px py ↔ RowSets b x0 y n px py := by
  induction n with
  | zero => simp [Canvas.drawCols, RowSets]
  | succ n ih =>
    have ih := ih (by omega)
    rw [drawCols_succ]
    by_cases hb : spriteBit b n = true
    · rw [if_pos hb, Canvas.plot]
      by_cases hp : px = columnOf x0 n ∧ py = y
      · obtain ⟨rfl, rfl⟩ := hp
        have hno : ¬ RowSets b x0 py n (columnOf x0 n) py := by
          rintro ⟨-, col, hc, -, he⟩
          have := columnOf_inj x0 (by omega) (by omega) he
          omega
        have hsame := not_not.1 (mt ih.1 hno)
        constructor
        · intro _
          exact ⟨rfl, n, by omega, hb, rfl⟩
        · intro _
          simp only [get_flip, and_self, if_true, hsame]
          simp
      · have := (flip_changes (Canvas.drawCols b x0 y n c).pix (columnOf x0 n) px y py).not.2 hp
        rw [not_not.1 this, ih]
        constructor
        · rintro ⟨h1, col, h2, h3, h4⟩
          exact ⟨h1, col, by omega, h3, h4⟩
        · rintro ⟨h1, col, h2, h3, h4⟩
          refine ⟨h1, col, ?_, h3, h4⟩
          rcases Nat.lt_succ_iff_lt_or_eq.1 h2 with h | h
          · exact h
          · subst h
            exact absurd ⟨h4, h1⟩ hp
    · rw [if_neg hb, ih]
      constructor
      · rintro ⟨h1, col, h2, h3, h4⟩
        exact ⟨h1, col, by omega, h3, h4⟩
      · rintro ⟨h1, col, h2, h3, h4⟩
        refine ⟨h1, col, ?_, h3, h4⟩
        rcases Nat.lt_succ_iff_lt_or_eq.1 h2 with h | h
        · exact h
        · subst h
          exact absurd h3 hb

/-- A row collides exactly when it lights a pixel that was on. -/
theorem drawCols_collision (b x0 : Byte) (y : Fin 32) (n : Nat) (hn : n ≤ 8) (c : Canvas) :
    (Canvas.drawCols b x0 y n c).collision = true ↔
      c.collision = true ∨ ∃ px py, RowSets b x0 y n px py ∧ c.pix.get px py = true := by
  induction n with
  | zero => simp [Canvas.drawCols, RowSets]
  | succ n ih =>
    have ih := ih (by omega)
    rw [drawCols_succ]
    by_cases hb : spriteBit b n = true
    · have hno : ¬ RowSets b x0 y n (columnOf x0 n) y := by
        rintro ⟨-, col, hc, -, he⟩
        have := columnOf_inj x0 (by omega) (by omega) he
        omega
      have hsame := not_not.1 (mt (drawCols_changes b x0 y n (by omega) c (columnOf x0 n) y).1 hno)
      rw [if_pos hb]
      simp only [Canvas.plot, Bool.or_eq_true, ih, hsame]
      constructor
      · rintro ((h | ⟨px, py, ⟨h1, col, h2, h3⟩, h4⟩) | h)
        · exact .inl h
        · exact .inr ⟨px, py, ⟨h1, col, by omega, h3⟩, h4⟩
        · exact .inr ⟨_, _, ⟨rfl, n, by omega, hb, rfl⟩, h⟩
      · rintro (h | ⟨px, py, ⟨rfl, col, h2, h3, rfl⟩, h4⟩)
        · exact .inl (.inl h)
        · rcases Nat.lt_succ_iff_lt_or_eq.1 h2 with h | rfl
          · exact .inl (.inr ⟨_, _, ⟨rfl, col, h, h3, rfl⟩, h4⟩)
          · exact .inr h4
    · rw [if_neg hb, ih]
      constructor
      · rintro (h | ⟨px, py, ⟨h1, col, h2, h3⟩, h4⟩)
        · exact .inl h
        · exact .inr ⟨px, py, ⟨h1, col, by omega, h3⟩, h4⟩
      · rintro (h | ⟨px, py, ⟨h1, col, h2, h3, h5⟩, h4⟩)
        · exact .inl h
        · rcases Nat.lt_succ_iff_lt_or_eq.1 h2 with h | rfl
          · exact .inr ⟨px, py, ⟨h1, col, h, h3, h5⟩, h4⟩
          · exact absurd h3 hb

/-! ## All rows -/

/-- The blit flips exactly the pixels the sprite lights. -/
theorem drawRows_changes (s : State) (x0 y0 : Byte) (n : Nat) (hn : n ≤ 32) (c : Canvas) (px : Fin 64) (py : Fin 32) :
    (Canvas.drawRows s x0 y0 n c).pix.get px py ≠ c.pix.get px py ↔ RowsSet s x0 y0 n px py := by
  induction n with
  | zero => simp [Canvas.drawRows, RowsSet]
  | succ n ih =>
    have ih := ih (by omega)
    rw [Canvas.drawRows]
    have hrow := drawCols_changes (s.readByte (s.dataAddr n)) x0 (rowOf y0 n) 8 (le_refl 8)
      (Canvas.drawRows s x0 y0 n c) px py
    by_cases hs : RowSets (s.readByte (s.dataAddr n)) x0 (rowOf y0 n) 8 px py
    · have hno : ¬ RowsSet s x0 y0 n px py := by
        rintro ⟨r, hr, h, -⟩
        have := rowOf_inj y0 (by omega) (by omega) (h.symm.trans hs.1)
        omega
      rw [← not_not.1 (mt ih.1 hno)]
      exact ⟨fun _ => ⟨n, by omega, hs⟩, fun _ => hrow.2 hs⟩
    · rw [not_not.1 (mt hrow.1 hs), ih]
      constructor
      · rintro ⟨r, hr, h⟩
        exact ⟨r, by omega, h⟩
      · rintro ⟨r, hr, h⟩
        rcases Nat.lt_succ_iff_lt_or_eq.1 hr with h' | rfl
        · exact ⟨r, h', h⟩
        · exact absurd h hs

/-- The blit collides exactly when the sprite lights a pixel that was on. -/
theorem drawRows_collision (s : State) (x0 y0 : Byte) (n : Nat) (hn : n ≤ 32) (c : Canvas) :
    (Canvas.drawRows s x0 y0 n c).collision = true ↔
      c.collision = true ∨ ∃ px py, RowsSet s x0 y0 n px py ∧ c.pix.get px py = true := by
  induction n with
  | zero => simp [Canvas.drawRows, RowsSet]
  | succ n ih =>
    have ih := ih (by omega)
    rw [Canvas.drawRows, drawCols_collision _ _ _ 8 (le_refl 8), ih]
    have hsame : ∀ px py, RowSets (s.readByte (s.dataAddr n)) x0 (rowOf y0 n) 8 px py →
        (Canvas.drawRows s x0 y0 n c).pix.get px py = c.pix.get px py := by
      intro px py hs
      refine not_not.1 (mt (drawRows_changes s x0 y0 n (by omega) c px py).1 ?_)
      rintro ⟨r, hr, h, -⟩
      have := rowOf_inj y0 (by omega) (by omega) (h.symm.trans hs.1)
      omega
    constructor
    · rintro ((h | ⟨px, py, ⟨r, hr, h1⟩, h2⟩) | ⟨px, py, h1, h2⟩)
      · exact .inl h
      · exact .inr ⟨px, py, ⟨r, by omega, h1⟩, h2⟩
      · exact .inr ⟨px, py, ⟨n, by omega, h1⟩, (hsame px py h1) ▸ h2⟩
    · rintro (h | ⟨px, py, ⟨r, hr, h1⟩, h2⟩)
      · exact .inl (.inl h)
      · rcases Nat.lt_succ_iff_lt_or_eq.1 hr with h' | rfl
        · exact .inl (.inr ⟨px, py, ⟨r, h', h1⟩, h2⟩)
        · exact .inr ⟨px, py, h1, (hsame px py h1).trans h2⟩

/-! ## DRW -/

/-- The pixels after a DRW differ from those before exactly where the sprite lights them. -/
theorem drawSprite_changes (s : State) (x y : RegIdx) (n : Nat) (hn : n ≤ 32) (px : Fin 64) (py : Fin 32) :
    (s.drawSprite x y n).pix.get px py ≠ s.pix.get px py ↔ SpriteSets s (s.reg x) (s.reg y) n px py := by
  rw [← rowsSet_iff]
  exact drawRows_changes s (s.reg x) (s.reg y) n hn ⟨s.pix, false⟩ px py

/-- The collision of a DRW's blit. -/
theorem blit_collision (s : State) (x y : RegIdx) (n : Nat) (hn : n ≤ 32) :
    (s.blit x y n).collision = true ↔
      ∃ px py, SpriteSets s (s.reg x) (s.reg y) n px py ∧ s.pix.get px py = true := by
  rw [State.blit, drawRows_collision s _ _ n hn]
  simp [rowsSet_iff]

/-- VF after a DRW is its collision flag; the other registers are as before. -/
theorem reg_drawSprite (s : State) (x y k : RegIdx) (n : Nat) :
    (s.drawSprite x y n).reg k = if k = vf then collisionFlag (s.blit x y n).collision else s.reg k := by
  rw [State.drawSprite, reg_notifyDisplay, reg_setReg]
  rfl

end Sys2Proof.Machine
end

