-- ==== Sys2Proof/Laws/Exec.lean ====
section
/-! SUPPORT. One equation per meaning whose body runs through the parameters or a check: what it answers, with the
spec's parameters and the check's two cases resolved. -/

namespace Sys2Proof.Machine

/-! ## Control transfer -/

theorem execJp_eq (nnn : BitVec 12) (s : State) : execJp nnn s = .next { s with pc := zextNnn nnn } := by
  simp [execJp, jpWith]

theorem execCall_push {s : State} (nnn : BitVec 12) (h : s.sp.val < 16) :
    execCall nnn s = .next { s.pushReturn h with pc := zextNnn nnn } := by
  simp [execCall, callWith, h]

theorem execCall_overflow {s : State} (nnn : BitVec 12) (h : s.sp.val = 16) :
    execCall nnn s = .next (s.enterFault (.stackOverflow (s.pc - 2))) := by
  simp [execCall, callWith, h, raise_eq]

theorem execRet_pop {s : State} (h : 0 < s.sp.val) : execRet s = .next (s.popReturn h) := by
  simp only [execRet, h, dite_true]

theorem execRet_underflow {s : State} (h : s.sp.val = 0) :
    execRet s = .next (s.enterFault (.stackUnderflow (s.pc - 2))) := by
  simp [execRet, h, raise_eq]

/-! ## ALU -/

theorem execOr_eq (x y : RegIdx) (s : State) : execOr x y s = .next (s.setReg x (s.reg x ||| s.reg y)) := rfl
theorem execAnd_eq (x y : RegIdx) (s : State) : execAnd x y s = .next (s.setReg x (s.reg x &&& s.reg y)) := rfl
theorem execXor_eq (x y : RegIdx) (s : State) : execXor x y s = .next (s.setReg x (s.reg x ^^^ s.reg y)) := rfl

theorem execAddvxy_eq (x y : RegIdx) (s : State) : execAddvxy x y s
    = .next (s.setFlagAndResult .flagThenResult x (carryFlag (s.reg x) (s.reg y)) (s.reg x + s.reg y)) := rfl
theorem execSubvxy_eq (x y : RegIdx) (s : State) : execSubvxy x y s
    = .next (s.setFlagAndResult .flagThenResult x (notBorrowFlag (s.reg x) (s.reg y)) (s.reg x - s.reg y)) := rfl
theorem execSubn_eq (x y : RegIdx) (s : State) : execSubn x y s
    = .next (s.setFlagAndResult .flagThenResult x (notBorrowFlag (s.reg y) (s.reg x)) (s.reg y - s.reg x)) := rfl
theorem execShr_eq (x y : RegIdx) (s : State) : execShr x y s
    = .next (s.setFlagAndResult .flagThenResult x (shrFlag (s.reg x)) (s.reg x >>> 1)) := rfl
theorem execShl_eq (x y : RegIdx) (s : State) : execShl x y s
    = .next (s.setFlagAndResult .flagThenResult x (shlFlag (s.reg x)) (s.reg x <<< 1)) := rfl

/-! ## Memory and index -/

theorem execAddivx_ok {s : State} {x : RegIdx} (h : ¬ s.i.toNat + (s.reg x).toNat > 0xFFFF) :
    execAddivx x s = .next { s with i := BitVec.ofNat 16 (s.i.toNat + (s.reg x).toNat) } := by
  rw [execAddivx, if_neg h]

theorem execAddivx_overflow {s : State} {x : RegIdx} (h : s.i.toNat + (s.reg x).toNat > 0xFFFF) :
    execAddivx x s = .next (s.enterFault (.indexOverflow (s.i.toNat + (s.reg x).toNat))) := by
  rw [execAddivx, if_pos h, raise_eq]

theorem execLdbvx_ok {s : State} (x : RegIdx) (h : s.accessOk 3 = true) : execLdbvx x s = .next (s.storeDigits x) :=
  checkedAccess_ok _ h

theorem execLdivx_ok {s : State} {x : RegIdx} (h : s.accessOk (x.val + 1) = true) :
    execLdivx x s = .next (s.storeRegs (x.val + 1)) := by
  rw [execLdivx, ldivxWith, checkedAccess_ok _ h, bulkIndex_params]

theorem execLdvxi_ok {s : State} {x : RegIdx} (h : s.accessOk (x.val + 1) = true) :
    execLdvxi x s = .next (s.loadRegs (x.val + 1)) := by
  rw [execLdvxi, ldvxiWith, checkedAccess_ok _ h, bulkIndex_params]

/-! ## Display, keypad -/

theorem execDrw_ok {s : State} (x y : RegIdx) {n : Nat} (h : s.accessOk n = true) :
    execDrw x y n s = .next (s.drawSprite x y n) := checkedAccess_ok _ h

theorem skipOnKey_ok {s : State} {x : RegIdx} (down : Bool) (h : (s.reg x).toNat < 16) :
    skipOnKey down x s = .next (s.skipIf (s.keys[(s.reg x).toNat]'h == down)) := by
  simp only [skipOnKey, h, dite_true]

theorem skipOnKey_fault {s : State} {x : RegIdx} (down : Bool) (h : ¬ (s.reg x).toNat < 16) :
    skipOnKey down x s = .next (s.enterFault (.keyIndexOutOfRange (s.reg x))) := by
  simp only [skipOnKey, h, dite_false, raise_eq]

/-- What a wait for a key can do: wait, or store the answer. -/
theorem awaitKey_cases (s : State) (x : RegIdx) :
    ((s.keyHandler = none ∨ s.keyHandler = some []) ∧ s.awaitKey x = { s with mode := .awaitingKey x }) ∨
    ∃ b rest, s.keyHandler = some (b :: rest) ∧
      s.awaitKey x = { s.setReg x b with mode := .ready, keyHandler := some rest } := by
  rcases hk : s.keyHandler with _ | (_ | ⟨b, rest⟩)
  · exact .inl ⟨.inl rfl, by simp [State.awaitKey, hk]⟩
  · exact .inl ⟨.inr rfl, by simp [State.awaitKey, hk]⟩
  · exact .inr ⟨b, rest, rfl, by simp [State.awaitKey, hk]⟩

/-! ## Out of range -/

theorem execDrw_fault {s : State} (x y : RegIdx) {n : Nat} (h : s.accessOk n = false) : execDrw x y n s = .next
    { s with returned := some (.memoryOutOfRange s.i n), fault := some (.memoryOutOfRange s.i n) } :=
  checkedAccess_fault _ h

theorem execLdbvx_fault {s : State} (x : RegIdx) (h : s.accessOk 3 = false) : execLdbvx x s = .next
    { s with returned := some (.memoryOutOfRange s.i 3), fault := some (.memoryOutOfRange s.i 3) } :=
  checkedAccess_fault _ h

theorem execLdivx_fault {s : State} {x : RegIdx} (h : s.accessOk (x.val + 1) = false) : execLdivx x s = .next
    { s with returned := some (.memoryOutOfRange s.i (x.val + 1)), fault := some (.memoryOutOfRange s.i (x.val + 1)) } := by
  rw [execLdivx, ldivxWith]
  exact checkedAccess_fault _ h

theorem execLdvxi_fault {s : State} {x : RegIdx} (h : s.accessOk (x.val + 1) = false) : execLdvxi x s = .next
    { s with returned := some (.memoryOutOfRange s.i (x.val + 1)), fault := some (.memoryOutOfRange s.i (x.val + 1)) } := by
  rw [execLdvxi, ldvxiWith]
  exact checkedAccess_fault _ h

/-! ## Frames of the register operations -/

theorem changesOnlyRegs_setReg (s : State) (x : RegIdx) (b : Byte) : ChangesOnlyRegs [x] s (s.setReg x b) :=
  ⟨rfl, fun _ hk => reg_setReg_ne s b (by simpa using hk), fun _ => rfl⟩

theorem changesOnlyRegs_setFlagAndResult (s : State) (o : FlagOrder) (x : RegIdx) (f r : Byte) :
    ChangesOnlyRegs [x, vf] s (s.setFlagAndResult o x f r) := by
  refine ⟨setFlagAndResult_eq _ _ _ _ _, fun k hk => ?_, fun _ => by simp⟩
  simp only [List.mem_cons, List.not_mem_nil, or_false, not_or] at hk
  cases o
  · rw [reg_setFlagAndResult_flagThenResult, if_neg hk.1, if_neg hk.2]
  · rw [reg_setFlagAndResult_resultThenFlag, if_neg hk.2, if_neg hk.1]

/-- A wait for a key touches the registers, the mode and the handler's answers only. -/
theorem awaitKey_eq (s : State) (x : RegIdx) : s.awaitKey x = { s with
    v := (s.awaitKey x).v, mode := (s.awaitKey x).mode, keyHandler := (s.awaitKey x).keyHandler } := by
  obtain ⟨-, e⟩ | ⟨b, r, -, e⟩ := awaitKey_cases s x
  · rw [e]
  · rw [e]
    rfl

end Sys2Proof.Machine
end

