-- ==== Sys2Proof/Laws/Cycle.lean ====
section
/-! SUPPORT. The cases of a cycle, for any Execute, and the end of a cycle. -/

namespace Sys2Proof.Machine

variable {p : Params} {ex : Instr → State → Result} {s : State}

theorem cycle_faulted {f : Fault} (h : s.fault = some f) : cycle p ex s = .fault f := by
  simp only [cycle, h]

theorem cycle_waiting {x : RegIdx} (hf : s.fault = none) (hm : s.mode = .awaitingKey x) :
    cycle p ex s = .next (s.beginCycle.awaitKey x).endCycle := by
  simp only [cycle, hf, hm, endOf]

theorem cycle_fetches (hf : s.fault = none) (hm : s.mode = .ready) (hp : s.fetchOk = true) :
    cycle p ex s = runWord p ex s.fetchWord s.beginCycle.fetched := by
  simp only [cycle, hf, hm, hp, if_true]

theorem cycle_outOfRange (hf : s.fault = none) (hm : s.mode = .ready) (hp : s.fetchOk = false) :
    cycle p ex s = .next (s.beginCycle.enterFault (.fetchOutOfRange s.pc)) := by
  simp only [cycle, hf, hm, hp, raise_eq, Bool.false_eq_true, if_false]

/-- The decoder's error is always DecodeError with the word (30_encoding.md R104). -/
theorem decode_error {op : Word} {e : DecodeReject} (h : decode op = .error e) : e = .decodeError op := by
  unfold decode at h
  split at h <;> (try cases h) <;> try rfl
  · unfold decodeFamily0 at h
    split_ifs at h
    cases h
    rfl
  · split_ifs at h
    cases h
    rfl
  · unfold decodeFamily8 at h
    split at h <;> cases h
    rfl
  · split_ifs at h
    cases h
    rfl
  · unfold decodeFamilyE at h
    split at h <;> cases h
    rfl
  · unfold decodeFamilyF at h
    split at h <;> cases h
    rfl

theorem runWord_ok {op : Word} {ins : Instr} (h : decode op = .ok ins) : runWord p ex op s = endOf (ex ins s) := by
  simp only [runWord, h]

theorem runWord_illegal {op : Word} {e : DecodeReject} (h : decode op = .error e) :
    runWord Config.params ex op s = .next (s.enterFault (.decodeError op)) := by
  simp only [runWord, h, illegalWord, Config.params, raise_eq]
  rfl

theorem fetchOk_iff : s.fetchOk = true ↔ s.pc.toNat ≤ 0xFFE := by simp [State.fetchOk]

/-! ## The end of a cycle -/

@[simp] theorem endOf_next (s : State) : endOf (.next s) = .next s.endCycle := rfl

theorem endCycle_completed (hm : s.mode = .ready) (hr : s.returned = none) :
    s.endCycle = s.advanceTimers (Config.tick s.tickDraws) := by
  simp [State.endCycle, State.completed, hm, hr]

theorem endCycle_raised {f : Fault} (hr : s.returned = some f) : s.endCycle = s := by
  simp [State.endCycle, State.completed, hr]

theorem endCycle_waiting {x : RegIdx} (hm : s.mode = .awaitingKey x) : s.endCycle = s := by
  simp [State.endCycle, State.completed, hm]

@[simp] theorem reg_endCycle' (s : State) (k : RegIdx) : s.endCycle.reg k = s.reg k := by simp [State.reg]

/-! ## Everything a step can do -/

/-- A step that answers a next state has no terminal fault before it, and either goes on with a wait for a key, or
raises the fetch's fault, or DecodeError, or runs the decoded instruction and ends the cycle. -/
theorem step_cases {t : State} (h : step s = .next t) : s.fault = none ∧
    ((∃ x, s.mode = .awaitingKey x ∧ t = (s.beginCycle.awaitKey x).endCycle) ∨
      (s.mode = .ready ∧ s.fetchOk = false ∧ t = s.beginCycle.enterFault (.fetchOutOfRange s.pc)) ∨
      (s.mode = .ready ∧ s.fetchOk = true ∧ (∃ e, decode s.fetchWord = .error e) ∧
        t = s.beginCycle.fetched.enterFault (.decodeError s.fetchWord)) ∨
      (s.mode = .ready ∧ s.fetchOk = true ∧ ∃ ins, decode s.fetchWord = .ok ins ∧
        endOf (exec ins s.beginCycle.fetched) = .next t)) := by
  rw [step] at h
  cases hf : s.fault with
  | some f =>
    rw [cycle_faulted hf] at h
    cases h
  | none =>
    refine ⟨rfl, ?_⟩
    cases hm : s.mode with
    | awaitingKey x =>
      rw [cycle_waiting hf hm] at h
      exact .inl ⟨x, rfl, by injection h with h; exact h.symm⟩
    | ready =>
      cases hp : s.fetchOk with
      | false =>
        rw [cycle_outOfRange hf hm hp] at h
        exact .inr (.inl ⟨rfl, rfl, by injection h with h; exact h.symm⟩)
      | true =>
        rw [cycle_fetches hf hm hp] at h
        cases hd : decode s.fetchWord with
        | error e =>
          rw [runWord_illegal hd] at h
          exact .inr (.inr (.inl ⟨rfl, rfl, ⟨e, rfl⟩, by injection h with h; exact h.symm⟩))
        | ok ins =>
          rw [runWord_ok hd] at h
          exact .inr (.inr (.inr ⟨rfl, rfl, ins, rfl, h⟩))

/-! ## Step calls -/

theorem runCycles_zero (f : State → Result) (s : State) : runCycles f 0 s = .ok s := rfl

theorem runCycles_next {f : State → Result} {s t : State} (n : Nat) (h : f s = .next t) :
    runCycles f (n + 1) s = match t.outcome with
      | .ok => runCycles f n t
      | .err e => .err e t
      | .suspended => .waiting (n + 1) t := by
  cases ho : t.outcome <;> simp only [runCycles, h, ho]

theorem runCycles_fault {f : State → Result} {s : State} {e : Fault} (n : Nat) (h : f s = .fault e) :
    runCycles f (n + 1) s = .err e s := by
  simp only [runCycles, h]

theorem outcome_ok {t : State} (hm : t.mode = .ready) (hr : t.returned = none) : t.outcome = .ok := by
  simp only [State.outcome, hm, hr]

theorem outcome_err {t : State} {e : Fault} (hm : t.mode = .ready) (hr : t.returned = some e) : t.outcome = .err e := by
  simp only [State.outcome, hm, hr]

theorem outcome_suspended {t : State} {x : RegIdx} (hm : t.mode = .awaitingKey x) : t.outcome = .suspended := by
  simp only [State.outcome, hm]

end Sys2Proof.Machine
end

