-- ==== Sys2Proof/Laws/PerInstr.lean ====
section
/-! SUPPORT. Family OwnRow (LAWS.json): the word of an instruction has the fixed bits of its own row of the opcode
map (30_encoding.md R105), one lemma per constructor. -/

namespace Sys2Proof.Laws

/-- The row of the opcode map with the instruction's mnemonic. -/
def rowOf (ins : Instr) : Option Row := opcodeTable.find? (fun r => r.mnemonic = ins.mnemonic)

/-- The instruction's word has the fixed bits of its row. -/
def OwnRow.Statement (ins : Instr) : Prop := ∃ r, rowOf ins = some r ∧ encode ins &&& r.mask = r.bits

/-! ## The masks on packed words -/

theorem and_nybble (t : BitVec 4) : t &&& 0xF#4 = t := BitVec.and_allOnes

theorem and_byte (b : Byte) : b &&& 0xFF#8 = b := BitVec.and_allOnes

theorem packNnn_and (t : BitVec 4) (nnn : BitVec 12) : packNnn t nnn &&& 0xF000 = packNnn t 0 := by
  have : (0xF000 : Word) = (0xF#4 ++ 0x0#12 : BitVec 16) := rfl
  rw [packNnn, packNnn, this, BitVec.and_append]
  simp [and_nybble]

theorem packXkk_and (t : BitVec 4) (x : RegIdx) (kk : Byte) : packXkk t x kk &&& 0xF000 = packXkk t 0 0 := by
  have : (0xF000 : Word) = (0xF#4 ++ 0x0#4 ++ 0x0#8 : BitVec 16) := rfl
  rw [packXkk, packXkk, this, BitVec.and_append, BitVec.and_append]
  simp [and_nybble]

theorem packXkk_and_low (t : BitVec 4) (x : RegIdx) (kk : Byte) : packXkk t x kk &&& 0xF0FF = packXkk t 0 kk := by
  have : (0xF0FF : Word) = (0xF#4 ++ 0x0#4 ++ 0xFF#8 : BitVec 16) := rfl
  rw [packXkk, packXkk, this, BitVec.and_append, BitVec.and_append]
  simp [and_nybble, and_byte]

theorem packXyn_and (t : BitVec 4) (x y : RegIdx) (n : BitVec 4) : packXyn t x y n &&& 0xF000 = packXyn t 0 0 0 := by
  have : (0xF000 : Word) = (0xF#4 ++ 0x0#4 ++ 0x0#4 ++ 0x0#4 : BitVec 16) := rfl
  rw [packXyn, packXyn, this, BitVec.and_append, BitVec.and_append, BitVec.and_append]
  simp [and_nybble]

theorem packXyn_and_low (t : BitVec 4) (x y : RegIdx) (n : BitVec 4) :
    packXyn t x y n &&& 0xF00F = packXyn t 0 0 n := by
  have : (0xF00F : Word) = (0xF#4 ++ 0x0#4 ++ 0x0#4 ++ 0xF#4 : BitVec 16) := rfl
  rw [packXyn, packXyn, this, BitVec.and_append, BitVec.and_append, BitVec.and_append]
  simp [and_nybble]

/-! ## One lemma per constructor -/

theorem OwnRow.cls : OwnRow.Statement .cls := ⟨_, rfl, rfl⟩
theorem OwnRow.ret : OwnRow.Statement .ret := ⟨_, rfl, rfl⟩
theorem OwnRow.jp (nnn : BitVec 12) : OwnRow.Statement (.jp nnn) := ⟨_, rfl, packNnn_and _ nnn⟩
theorem OwnRow.call (nnn : BitVec 12) : OwnRow.Statement (.call nnn) := ⟨_, rfl, packNnn_and _ nnn⟩
theorem OwnRow.sevxb (x : RegIdx) (kk : Byte) : OwnRow.Statement (.sevxb x kk) := ⟨_, rfl, packXkk_and _ x kk⟩
theorem OwnRow.snevxb (x : RegIdx) (kk : Byte) : OwnRow.Statement (.snevxb x kk) := ⟨_, rfl, packXkk_and _ x kk⟩
theorem OwnRow.sevxy (x : RegIdx) (y : RegIdx) : OwnRow.Statement (.sevxy x y) := ⟨_, rfl, packXyn_and_low _ x y _⟩
theorem OwnRow.ldvxb (x : RegIdx) (kk : Byte) : OwnRow.Statement (.ldvxb x kk) := ⟨_, rfl, packXkk_and _ x kk⟩
theorem OwnRow.addvxb (x : RegIdx) (kk : Byte) : OwnRow.Statement (.addvxb x kk) := ⟨_, rfl, packXkk_and _ x kk⟩
theorem OwnRow.ldvxy (x : RegIdx) (y : RegIdx) : OwnRow.Statement (.ldvxy x y) := ⟨_, rfl, packXyn_and_low _ x y _⟩
theorem OwnRow.or (x : RegIdx) (y : RegIdx) : OwnRow.Statement (.or x y) := ⟨_, rfl, packXyn_and_low _ x y _⟩
theorem OwnRow.and (x : RegIdx) (y : RegIdx) : OwnRow.Statement (.and x y) := ⟨_, rfl, packXyn_and_low _ x y _⟩
theorem OwnRow.xor (x : RegIdx) (y : RegIdx) : OwnRow.Statement (.xor x y) := ⟨_, rfl, packXyn_and_low _ x y _⟩
theorem OwnRow.addvxy (x : RegIdx) (y : RegIdx) : OwnRow.Statement (.addvxy x y) := ⟨_, rfl, packXyn_and_low _ x y _⟩
theorem OwnRow.subvxy (x : RegIdx) (y : RegIdx) : OwnRow.Statement (.subvxy x y) := ⟨_, rfl, packXyn_and_low _ x y _⟩
theorem OwnRow.shr (x : RegIdx) (y : RegIdx) : OwnRow.Statement (.shr x y) := ⟨_, rfl, packXyn_and_low _ x y _⟩
theorem OwnRow.subn (x : RegIdx) (y : RegIdx) : OwnRow.Statement (.subn x y) := ⟨_, rfl, packXyn_and_low _ x y _⟩
theorem OwnRow.shl (x : RegIdx) (y : RegIdx) : OwnRow.Statement (.shl x y) := ⟨_, rfl, packXyn_and_low _ x y _⟩
theorem OwnRow.snevxy (x : RegIdx) (y : RegIdx) : OwnRow.Statement (.snevxy x y) := ⟨_, rfl, packXyn_and_low _ x y _⟩
theorem OwnRow.ldi (nnn : BitVec 12) : OwnRow.Statement (.ldi nnn) := ⟨_, rfl, packNnn_and _ nnn⟩
theorem OwnRow.jr (nnn : BitVec 12) : OwnRow.Statement (.jr nnn) := ⟨_, rfl, packNnn_and _ nnn⟩
theorem OwnRow.rnd (x : RegIdx) (kk : Byte) : OwnRow.Statement (.rnd x kk) := ⟨_, rfl, packXkk_and _ x kk⟩
theorem OwnRow.drw (x : RegIdx) (y : RegIdx) (n : Nat) : OwnRow.Statement (.drw x y n) := ⟨_, rfl, packXyn_and _ x y _⟩
theorem OwnRow.skp (x : RegIdx) : OwnRow.Statement (.skp x) := ⟨_, rfl, packXkk_and_low _ x _⟩
theorem OwnRow.sknp (x : RegIdx) : OwnRow.Statement (.sknp x) := ⟨_, rfl, packXkk_and_low _ x _⟩
theorem OwnRow.ldvxdt (x : RegIdx) : OwnRow.Statement (.ldvxdt x) := ⟨_, rfl, packXkk_and_low _ x _⟩
theorem OwnRow.ldvxk (x : RegIdx) : OwnRow.Statement (.ldvxk x) := ⟨_, rfl, packXkk_and_low _ x _⟩
theorem OwnRow.lddtvx (x : RegIdx) : OwnRow.Statement (.lddtvx x) := ⟨_, rfl, packXkk_and_low _ x _⟩
theorem OwnRow.ldstvx (x : RegIdx) : OwnRow.Statement (.ldstvx x) := ⟨_, rfl, packXkk_and_low _ x _⟩
theorem OwnRow.addivx (x : RegIdx) : OwnRow.Statement (.addivx x) := ⟨_, rfl, packXkk_and_low _ x _⟩
theorem OwnRow.ldfvx (x : RegIdx) : OwnRow.Statement (.ldfvx x) := ⟨_, rfl, packXkk_and_low _ x _⟩
theorem OwnRow.ldbvx (x : RegIdx) : OwnRow.Statement (.ldbvx x) := ⟨_, rfl, packXkk_and_low _ x _⟩
theorem OwnRow.ldivx (x : RegIdx) : OwnRow.Statement (.ldivx x) := ⟨_, rfl, packXkk_and_low _ x _⟩
theorem OwnRow.ldvxi (x : RegIdx) : OwnRow.Statement (.ldvxi x) := ⟨_, rfl, packXkk_and_low _ x _⟩

end Sys2Proof.Laws
end

