-- ==== Sys2Proof/Tests/Slice0.lean ====
section
/-! SUPPORT. The model's own tests. Words and expected results are the spec's: the encodings of 30_encoding.md,
the examples of the instruction rules, the vectors of 95_test_vectors.md (named in each comment). -/

namespace Sys2Proof.Tests

open Sys2Proof.Machine

/-! ## Small states and reads -/

/-- The reset state with some registers set. -/
def withRegs (l : List (RegIdx × Byte)) : State := l.foldl (fun s p => s.setReg p.1 p.2) State.reset

/-- One step on a word placed for the next fetch. -/
def stepOn (w : Nat) (s : State) : Result := step (s.withFetchWord 16 w)

/-- One read of the next state, if there is one. -/
def readNext {α : Type} (f : State → α) : Result → Option α
  | .next s => some (f s)
  | _ => none

/-- V[x] after a step. -/
def regAfter (x : RegIdx) (r : Result) : Option Byte := readNext (·.reg x) r
/-- PC after a step. -/
def pcAfter (r : Result) : Option Word := readNext (·.pc) r
/-- A byte of memory after a step. -/
def byteAfter (a : Nat) (r : Result) : Option Byte := readNext (·.readByte a) r
/-- The returned error and PC after a step. -/
def errAfter (r : Result) : Option (Option Fault × Word) := readNext (fun s => (s.returned, s.pc)) r

/-! ## WellFormed: the one check -/

theorem test_wellFormed_drw_rows : (Instr.drw 0 0 15).wellFormed = true := by decide
theorem test_illFormed_drw_rows : (Instr.drw 0 0 16).wellFormed = false := by decide

/-! ## Decoding: a word of every row, written out from the formats of 30_encoding.md R102 and R105 -/

theorem test_decode_cls : decode 0b0000_0000_1110_0000 = .ok .cls := by decide
theorem test_decode_ret : decode 0b0000_0000_1110_1110 = .ok .ret := by decide
theorem test_decode_jp : decode 0b0001_0100_0101_0000 = .ok (.jp 0x450) := by decide
theorem test_decode_call : decode 0b0010_0010_0101_0000 = .ok (.call 0x250) := by decide
theorem test_decode_sevxb : decode 0b0011_0001_0000_0101 = .ok (.sevxb 1 0x05) := by decide
theorem test_decode_snevxb : decode 0b0100_0011_0000_0001 = .ok (.snevxb 3 0x01) := by decide
theorem test_decode_sevxy : decode 0b0101_0001_0010_0000 = .ok (.sevxy 1 2) := by decide
theorem test_decode_ldvxb : decode 0b0110_1010_1001_1100 = .ok (.ldvxb 10 0x9C) := by decide
theorem test_decode_addvxb : decode 0b0111_0010_0000_0011 = .ok (.addvxb 2 0x03) := by decide
theorem test_decode_ldvxy : decode 0b1000_0000_0001_0000 = .ok (.ldvxy 0 1) := by decide
theorem test_decode_or : decode 0b1000_0010_0011_0001 = .ok (.or 2 3) := by decide
theorem test_decode_and : decode 0b1000_0010_0011_0010 = .ok (.and 2 3) := by decide
theorem test_decode_xor : decode 0b1000_0010_0011_0011 = .ok (.xor 2 3) := by decide
theorem test_decode_addvxy : decode 0b1000_0010_0011_0100 = .ok (.addvxy 2 3) := by decide
theorem test_decode_subvxy : decode 0b1000_0010_0011_0101 = .ok (.subvxy 2 3) := by decide
theorem test_decode_shr : decode 0b1000_0010_0011_0110 = .ok (.shr 2 3) := by decide
theorem test_decode_subn : decode 0b1000_0010_0011_0111 = .ok (.subn 2 3) := by decide
/-- V-D7. -/
theorem test_decode_shl : decode 0b1000_1111_1111_1110 = .ok (.shl 15 15) := by decide
theorem test_decode_snevxy : decode 0b1001_0001_0010_0000 = .ok (.snevxy 1 2) := by decide
theorem test_decode_ldi : decode 0b1010_0010_1111_0000 = .ok (.ldi 0x2F0) := by decide
theorem test_decode_jr : decode 0b1011_0011_0000_0000 = .ok (.jr 0x300) := by decide
theorem test_decode_rnd : decode 0b1100_0101_0000_1111 = .ok (.rnd 5 0x0F) := by decide
theorem test_decode_drw : decode 0b1101_0001_0010_0101 = .ok (.drw 1 2 5) := by decide
theorem test_decode_skp : decode 0b1110_0001_1001_1110 = .ok (.skp 1) := by decide
theorem test_decode_sknp : decode 0b1110_0001_1010_0001 = .ok (.sknp 1) := by decide
theorem test_decode_ldvxdt : decode 0b1111_0101_0000_0111 = .ok (.ldvxdt 5) := by decide
theorem test_decode_ldvxk : decode 0b1111_0011_0000_1010 = .ok (.ldvxk 3) := by decide
theorem test_decode_lddtvx : decode 0b1111_0011_0001_0101 = .ok (.lddtvx 3) := by decide
theorem test_decode_ldstvx : decode 0b1111_0011_0001_1000 = .ok (.ldstvx 3) := by decide
theorem test_decode_addivx : decode 0b1111_0001_0001_1110 = .ok (.addivx 1) := by decide
theorem test_decode_ldfvx : decode 0b1111_0010_0010_1001 = .ok (.ldfvx 2) := by decide
theorem test_decode_ldbvx : decode 0b1111_0011_0011_0011 = .ok (.ldbvx 3) := by decide
theorem test_decode_ldivx : decode 0b1111_0010_0101_0101 = .ok (.ldivx 2) := by decide
theorem test_decode_ldvxi : decode 0b1111_0010_0110_0101 = .ok (.ldvxi 2) := by decide

/-- V-D1 to V-D6. -/
theorem test_decode_illegal :
    ([0x0000, 0x0123, 0x00E1, 0x00EF, 0x00FF, 0x5121, 0x900F, 0x8008, 0x800D, 0x800F, 0xE09F, 0xE0A2, 0xF000,
      0xF01F, 0xFFFF] : List Word).all (fun op => decode op = .error (.decodeError op)) = true := by decide

theorem test_decodeTableWord : decodeTableWord 16 0xA2F0 = some (.ldi 0x2F0) := by decide
theorem test_decodeBytes_truncated : decodeBytes [0x12] = .error .truncated := by decide

/-! ## Control transfer -/

/-- V-F3, second cycle. -/
theorem test_ret :
    pcAfter (stepOn 0x00EE { State.reset with sp := 1, stack := State.reset.stack.set 0 0x202, pc := 0x206 })
      = some 0x202 := by decide
/-- V-F1. -/
theorem test_ret_underflow :
    errAfter (stepOn 0x00EE State.reset) = some (some (.stackUnderflow 0x200), 0x202) := by decide
/-- SV2, with conflict C3. -/
theorem test_jp : pcAfter (stepOn 0x1450 State.reset) = some 0x450 := by decide
/-- SV3, with conflict C3. -/
theorem test_call :
    readNext (fun s => (s.pc, s.sp, s.stack[0])) (stepOn 0x2250 State.reset) = some (0x250, 1, 0x202) := by decide
/-- V-F2. -/
theorem test_call_overflow :
    errAfter (stepOn 0x2300 { State.reset with sp := 16 }) = some (some (.stackOverflow 0x200), 0x202) := by decide
/-- SV7. -/
theorem test_sevxb_skips : pcAfter (stepOn 0x3005 (withRegs [(0, 5)])) = some 0x204 := by decide
theorem test_sevxb_goes_on : pcAfter (stepOn 0x3005 (withRegs [(0, 6)])) = some 0x202 := by decide
/-- R155's example and V-F14. -/
theorem test_snevxb_skips : pcAfter (stepOn 0x4301 State.reset) = some 0x204 := by decide
theorem test_snevxb_goes_on : pcAfter (stepOn 0x4301 (withRegs [(3, 1)])) = some 0x202 := by decide
/-- R156's example. -/
theorem test_sevxy : pcAfter (stepOn 0x5120 (withRegs [(1, 0x7F), (2, 0x7F)])) = some 0x204 := by decide
/-- R157's example and V-F13. -/
theorem test_snevxy : pcAfter (stepOn 0x9120 (withRegs [(1, 1), (2, 2)])) = some 0x204 := by decide
theorem test_snevxy_same : pcAfter (stepOn 0x9110 (withRegs [(1, 0x33)])) = some 0x202 := by decide
/-- V-F8 and V-F9. -/
theorem test_jr_reads_v0 : pcAfter (stepOn 0xB500 (withRegs [(5, 0x10)])) = some 0x500 := by decide
theorem test_jr_not_reduced : pcAfter (stepOn 0xBFF0 (withRegs [(0, 0x20)])) = some 0x1010 := by decide

/-! ## Loads and ALU -/

/-- V-A22. -/
theorem test_ldvxb : regAfter 15 (stepOn 0x6F7E State.reset) = some 0x7E := by decide
/-- V-A15. -/
theorem test_addvxb :
    readNext (fun s => (s.reg 2, s.reg 15)) (stepOn 0x7201 (withRegs [(2, 0xFF), (15, 5)])) = some (0, 5) := by decide
/-- V-A19. -/
theorem test_ldvxy : regAfter 0 (stepOn 0x8010 (withRegs [(1, 0x2A)])) = some 0x2A := by decide
/-- V-A17. -/
theorem test_or :
    readNext (fun s => (s.reg 0, s.reg 15)) (stepOn 0x8011 (withRegs [(0, 1), (1, 2), (15, 1)])) = some (3, 1) := by
  decide
/-- V-A18. -/
theorem test_and : regAfter 0 (stepOn 0x8012 (withRegs [(0, 0xF3), (1, 0x3F)])) = some 0x33 := by decide
/-- R178's example. -/
theorem test_xor : regAfter 0 (stepOn 0x8013 (withRegs [(0, 0xFF), (1, 0x0F)])) = some 0xF0 := by decide
/-- V-A1 and V-A2. -/
theorem test_addvxy :
    readNext (fun s => (s.reg 0, s.reg 15)) (stepOn 0x8014 (withRegs [(0, 0xFF), (1, 0xFF)])) = some (0xFE, 1) := by
  decide
theorem test_addvxy_to_vf : regAfter 15 (stepOn 0x8F14 (withRegs [(15, 0xFF), (1, 1)])) = some 0 := by decide
/-- SV6 and V-A5. -/
theorem test_subvxy :
    readNext (fun s => (s.reg 0, s.reg 15)) (stepOn 0x8015 (withRegs [(0, 4), (1, 5)])) = some (0xFF, 0) := by decide
theorem test_subvxy_equal :
    readNext (fun s => (s.reg 0, s.reg 15)) (stepOn 0x8015 (withRegs [(0, 0x42), (1, 0x42)])) = some (0, 0) := by
  decide
/-- V-A11 and V-A12. -/
theorem test_shr_ignores_vy :
    readNext (fun s => (s.reg 0, s.reg 15)) (stepOn 0x8016 (withRegs [(0, 4), (1, 3)])) = some (2, 0) := by decide
theorem test_shr_to_vf : regAfter 15 (stepOn 0x8F06 (withRegs [(15, 2)])) = some 1 := by decide
/-- V-A8. -/
theorem test_subn :
    readNext (fun s => (s.reg 0, s.reg 15)) (stepOn 0x8017 (withRegs [(0, 4), (1, 5)])) = some (1, 1) := by decide
/-- R183's example. -/
theorem test_shl :
    readNext (fun s => (s.reg 0, s.reg 15)) (stepOn 0x800E (withRegs [(0, 0x81)])) = some (2, 1) := by decide
/-- V-A20. -/
theorem test_rnd_masked : regAfter 5 (stepOn 0xC500 State.reset) = some 0 :=
  congrArg some (BitVec.and_zero (x := Config.randomByte 0))

/-! ## Index register and memory -/

/-- V-I1. -/
theorem test_ldi : readNext (·.i) (stepOn 0xAFFF State.reset) = some 0x0FFF := by decide
/-- V-I2 and V-I4. -/
theorem test_addivx :
    readNext (·.i) (stepOn 0xF11E { withRegs [(1, 1)] with i := 0x0FFF }) = some 0x1000 := by decide
theorem test_addivx_overflow :
    errAfter (stepOn 0xF01E { withRegs [(0, 1)] with i := 0xFFFF }) = some (some (.indexOverflow 0x10000), 0x202) := by
  decide
/-- V-I7. -/
theorem test_ldfvx : readNext (·.i) (stepOn 0xF029 (withRegs [(0, 0xFF)])) = some 0x4FB := by decide
/-- SV11 and V-I11. -/
theorem test_ldbvx :
    readNext (fun s => [s.readByte 0x300, s.readByte 0x301, s.readByte 0x302])
      (stepOn 0xF333 { withRegs [(3, 156)] with i := 0x300 }) = some [1, 5, 6] := by decide
theorem test_ldbvx_out_of_range :
    errAfter (stepOn 0xF033 { withRegs [(0, 0x7B)] with i := 0xFFE })
      = some (some (.memoryOutOfRange 0xFFE 3), 0x202) := by decide
/-- SV12 and V-I16. -/
theorem test_ldivx_inclusive :
    readNext (fun s => [s.readByte 0x400, s.readByte 0x401, s.readByte 0x402, s.readByte 0x403])
      (stepOn 0xF255 { withRegs [(0, 0x11), (1, 0x22), (2, 0x33), (3, 0x44)] with i := 0x400 })
      = some [0x11, 0x22, 0x33, 0] := by decide
theorem test_ldivx_over_font : byteAfter 0 (stepOn 0xF055 (withRegs [(0, 0x12)])) = some 0x12 := by decide
/-- R206's example, from the font, and V-I3. -/
theorem test_ldvxi :
    readNext (fun s => (s.reg 0, s.reg 1, s.reg 2)) (stepOn 0xF165 { withRegs [(2, 7)] with i := 0x05 })
      = some (0x20, 0x60, 7) := by decide
theorem test_ldvxi_out_of_range :
    errAfter (stepOn 0xF065 { State.reset with i := 0x1000 })
      = some (some (.memoryOutOfRange 0x1000 1), 0x202) := by decide

/-! ## Display -/

/-- V-G9. -/
theorem test_cls :
    readNext (fun s => (s.pix.get 3 4, s.notifications))
      (stepOn 0x00E0 { State.reset with pix := State.reset.pix.flip 3 4 }) = some (false, 1) := by decide
/-- SV9, the first row of glyph A, and V-G4's collision. -/
theorem test_drw :
    readNext (fun s => (s.pix.get 0 0, s.pix.get 3 0, s.pix.get 4 0, s.reg 15, s.notifications))
      (stepOn 0xD011 { State.reset with i := 0x032 }) = some (true, true, false, 0, 1) := by decide
/-- V-G2 with the glyph row F0 at column 63, row 31: wraps to column 0, and a pixel already on collides. -/
theorem test_drw_wraps_and_collides :
    readNext (fun s => (s.pix.get 63 31, s.pix.get 0 31, s.reg 15))
      (stepOn 0xD011 { withRegs [(0, 63), (1, 31)] with i := 0x032, pix := State.reset.pix.flip 0 31 })
      = some (true, false, 1) := by decide

/-! ## Keypad and timers -/

/-- V-T8 and V-T11. -/
theorem test_skp :
    pcAfter (stepOn 0xE19E { withRegs [(1, 4)] with keys := State.reset.keys.set 4 true }) = some 0x204 := by decide
theorem test_skp_out_of_range :
    errAfter (stepOn 0xE19E (withRegs [(1, 0x10)])) = some (some (.keyIndexOutOfRange 0x10), 0x202) := by decide
/-- V-T10. -/
theorem test_sknp : pcAfter (stepOn 0xE1A1 (withRegs [(1, 4)])) = some 0x204 := by decide
/-- V-T5. -/
theorem test_ldvxdt : regAfter 5 (stepOn 0xF507 { State.reset with dt := 0x3C }) = some 0x3C := by decide
/-- SV8: the wait, and the answer. -/
theorem test_ldvxk_waits :
    readNext (fun s => (s.mode, s.pc)) (stepOn 0xF30A State.reset) = some (.awaitingKey 3, 0x202) := by decide
theorem test_ldvxk_answered :
    readNext (fun s => (s.reg 3, s.mode, s.pc)) (stepOn 0xF30A { State.reset with keyHandler := some [4] })
      = some (4, .ready, 0x202) := by decide
/-- V-T3, Execute and then a timer advance that ticks. -/
theorem test_lddtvx :
    readNext (fun s => (s.advanceTimers true).dt) (exec (.lddtvx 0) (withRegs [(0, 5)])) = some 4 := by decide
/-- V-T6, first cycle. -/
theorem test_ldstvx :
    readNext (fun s => (s.advanceTimers true).st) (exec (.ldstvx 0) (withRegs [(0, 2)])) = some 1 := by decide

/-! ## The cycle and the host -/

/-- SV10. -/
theorem test_timers_stop_at_zero :
    ((State.reset.advanceTimers true).advanceTimers true).dt = 0 ∧ (State.reset.advanceTimers true).st = 0 := by decide
/-- V-F6, second cycle. -/
theorem test_fetch_out_of_range :
    errAfter (step { State.reset with pc := 0xFFF }) = some (some (.fetchOutOfRange 0xFFF), 0xFFF) := by decide
/-- V-H4 and V-T7. -/
theorem test_step_no_program : errAfter (step State.reset) = some (some (.decodeError 0), 0x202) := by decide
/-- V-H5. -/
theorem test_hostStep_zero : hostStep 0 State.reset = .ok State.reset := by decide
/-- V-H2. -/
theorem test_loadMemory_too_large (bytes : List Byte) (h : bytes.length = 3585) :
    loadMemory bytes State.reset = .error (.romTooLarge 3585) := by
  simp [loadMemory, betweenSteps, State.reset, maxRom, memSize, progBase, h]
/-- V-H8, V-H9. -/
theorem test_host_ranges :
    setKey 16 true State.reset = .error (.keyIndexInvalid 16) ∧
      getPixel 64 0 State.reset = .error (.pixelOutOfRange 64 0) := by decide
/-- V-H12. -/
theorem test_getPixel :
    getPixel 1 0 { State.reset with pix := State.reset.pix.flip 1 0 } = .ok (0xFF, 0xFF, 0xFF) := by decide
/-- V-H1. -/
theorem test_reset_memory :
    (State.reset.readByte 0x032, State.reset.readByte 0x04F, State.reset.readByte 0x050, State.reset.readByte 0xFFF)
      = (0xF0, 0x80, 0, 0) := by decide
/-- R291. -/
theorem test_endOfRun : (State.reset.withFetchWord 16 0x1200).endOfRun = true := by decide
/-- R274's codes. -/
theorem test_host_error_codes :
    [HostError.romTooLarge 3585, .keyIndexInvalid 16, .pixelOutOfRange 64 0].map HostError.code
      = [some 8, some 9, some 10] := by decide
/-- R311 with another FONT: its first and last byte, the byte after it, and PC. -/
theorem test_other_font :
    (fun s : State => (s.readByte 0x000, s.readByte 0x04F, s.readByte 0x050, s.pc))
      (newCoreWith { Config.params with font := Vector.replicate 80 0xAA }) = (0xAA, 0xAA, 0, 0x200) := by decide
theorem test_wf : (Memory.write 0x300 5 (Memory.write 0 0xF0 (Memory.write 0x300 4 []))) = [(0x300, 5)] := by decide

/-! ## The other values of the parameters (95_test_vectors.md, V-A2, V-A11, V-A17, V-I15, SV2, V-D2) -/

theorem test_flag_order :
    regAfter 15 (execWith { Config.params with flagOrder := .resultThenFlag } (.addvxy 15 1)
      (withRegs [(15, 0xFF), (1, 1)])) = some 1 := by decide
theorem test_shift_source :
    readNext (fun s => (s.reg 0, s.reg 15)) (execWith { Config.params with shiftSource := .vy } (.shr 0 1)
      (withRegs [(0, 4), (1, 3)])) = some (1, 1) := by decide
theorem test_logic_vf_reset :
    regAfter 15 (execWith { Config.params with logicVfReset := true } (.or 0 1)
      (withRegs [(0, 1), (1, 2), (15, 1)])) = some 0 := by decide
theorem test_bulk_increment :
    readNext (·.i) (execWith { Config.params with bulkIIncrement := true } (.ldivx 0)
      { State.reset with i := 0x300 }) = some 0x301 := by decide
theorem test_jump_landing :
    pcAfter (execWith { Config.params with jumpLandingOffset := .two } (.jp 0x450) State.reset) = some 0x452 := by
  decide
theorem test_hostStepWith :
    (match hostStepWith { Config.params with opcode0nnnPolicy := .nop } 2 State.reset with
      | .ok s => some s.pc
      | _ => none) = some 0x204 := by decide
theorem test_0nnn_nop :
    errAfter (stepWith { Config.params with opcode0nnnPolicy := .nop } (State.reset.withFetchWord 16 0x0123))
      = some (none, 0x202) := by decide

/-! ## Witnesses: for each statement of Certificates/Slice0 with hypotheses, a concrete state and operands that meet
them, at the boundary of each range -/

/-- The reset state about to run the word `w` at the last address a fetch may start at. -/
def lastFetch (w : Nat) : State := { State.reset with pc := 0xFFE }.withFetchWord 16 w

/-- A state that waits for a key into V3. -/
def waitingFor (h : Option (List Byte)) : State := { State.reset with mode := .awaitingKey 3, keyHandler := h }

/-- The hypotheses of a step that runs the instruction `ins` (shared by the statements about such a step). -/
def Runs (s : State) (ins : Instr) : Prop :=
  s.fault = none ∧ s.mode = .ready ∧ s.pc.toNat ≤ 0xFFE ∧ decode s.fetchWord = .ok ins

/-- The hypothesis that Execute answers a next state with the property P. -/
def Executes (ins : Instr) (s : State) (P : State → Prop) : Prop := ∃ t, exec ins s = .next t ∧ P t

/-- The hypothesis that a step answers a next state with the property P. -/
def Steps (s : State) (P : State → Prop) : Prop := ∃ t, step s = .next t ∧ P t

theorem witness_DecodeOfEncodeGivesTheInstruction : (Instr.drw 15 15 15).wellFormed = true := by decide

theorem witness_EncodeOfDecodedWordGivesTheWord : decode 0x8126 = .ok (.shr 1 2) := by decide

theorem witness_WordDecodesByTheOneRowItSelects :
    (∃ r ∈ opcodeTable, (0x00EE : Word) &&& r.mask = r.bits) ∧ ∀ r ∈ opcodeTable, (0xFFFF : Word) &&& r.mask ≠ r.bits := by
  decide

theorem witness_StepRunsTheDecodedInstruction : Runs (lastFetch 0x1FFE) (.jp 0xFFE) := by
  unfold Runs
  decide

theorem witness_TimersAdvanceAtTheEndOfACompletedCycle :
    Executes (.jp 0xFFE) { lastFetch 0x1FFE with pc := 0x1000 } (fun t => t.mode = .ready ∧ t.returned = none) ∧
    (Runs (lastFetch 0xF30A) (.ldvxk 3) ∧
      Executes (.ldvxk 3) { lastFetch 0xF30A with pc := 0x1000 } (fun t => t.mode ≠ .ready)) ∧
    (Runs (lastFetch 0x00EE) .ret ∧
      Executes .ret { lastFetch 0x00EE with pc := 0x1000 } (fun t => t.returned ≠ none)) ∧
    Steps (waitingFor none) (fun u => u.mode ≠ .ready) ∧ Steps (waitingFor (some [4])) (fun u => u.mode = .ready) ∧
    Steps (lastFetch 0x00EE) (fun t => t.returned ≠ none) := by
  unfold Runs
  exact ⟨⟨_, rfl, by decide⟩, ⟨by decide, _, rfl, by decide⟩, ⟨by decide, _, rfl, by decide⟩, ⟨_, rfl, by decide⟩,
    ⟨_, rfl, rfl⟩, _, rfl, by decide⟩

theorem witness_IllegalWordReturnsDecodeError :
    (State.reset.fault = none ∧ State.reset.mode = .ready ∧ State.reset.pc.toNat ≤ 0xFFE ∧
      decode State.reset.fetchWord = .error (.decodeError 0)) ∧
    decode (lastFetch 0xFFFF).fetchWord = .error (.decodeError 0xFFFF) ∧
    Steps { State.reset with mem := [(0x203, 0xE0)] } (fun t => t.pc.toNat ≤ 0xFFE ∧ decode t.fetchWord = .ok .cls) := by
  exact ⟨by decide, by decide, _, rfl, by decide⟩

theorem witness_FetchAboveMemoryRaisesFetchOutOfRange :
    State.reset.fault = none ∧ State.reset.mode = .ready ∧ (0xFFF : Word).toNat > 0xFFE := by decide

theorem witness_TerminalFaultIsReturnedByEveryLaterStep :
    Steps { State.reset with pc := 0xFFF } (fun t => t.returned = some (.fetchOutOfRange 0xFFF) ∧
      (Fault.fetchOutOfRange 0xFFF).terminal = true ∧ t.fault = some (.fetchOutOfRange 0xFFF)) :=
  ⟨_, rfl, by decide⟩

theorem witness_FaultsArePrecise :
    Steps State.reset (fun t => t.returned = some (.decodeError 0)) ∧
    Steps { State.reset with pc := 0xFFF } (fun t => t.returned = some (.fetchOutOfRange 0xFFF)) ∧
    Steps (lastFetch 0x00EE) (fun t => t.returned = some (.stackUnderflow 0xFFE)) :=
  ⟨⟨_, rfl, by decide⟩, ⟨_, rfl, by decide⟩, _, rfl, by decide⟩

theorem witness_ChecksAreMadeInOrder :
    (State.reset.mode = .ready ∧ State.reset.fault = none) ∧
      { State.reset with fault := some (.stackOverflow 0x200), pc := 0xFFF }.mode = .ready := by decide

theorem witness_EachInstructionRaisesExactlyItsOwnFault :
    (ownFault (.call 0) { State.reset with sp := 16 } ≠ none ∧ ownFault (.call 0) { State.reset with sp := 15 } = none) ∧
    (ownFault .ret State.reset ≠ none ∧ ownFault .ret { State.reset with sp := 1 } = none) ∧
    (ownFault (.drw 0 0 15) { State.reset with i := 0xFF2 } ≠ none ∧
      ownFault (.drw 0 0 15) { State.reset with i := 0xFF1 } = none ∧
      ownFault (.drw 0 0 0) { State.reset with i := 0xFFFF } = none) ∧
    (ownFault (.ldivx 15) { State.reset with i := 0xFF1 } ≠ none ∧
      ownFault (.ldivx 15) { State.reset with i := 0xFF0 } = none) ∧
    (ownFault (.skp 0) (withRegs [(0, 0x10)]) ≠ none ∧ ownFault (.skp 0) (withRegs [(0, 0xF)]) = none) ∧
    (ownFault (.addivx 0) { withRegs [(0, 1)] with i := 0xFFFF } ≠ none ∧
      ownFault (.addivx 0) { withRegs [(0, 1)] with i := 0xFFFE } = none) := by decide

theorem witness_NothingIsRefused : State.reset.fault = none := rfl

theorem witness_WaitForKeySuspendsTheCycle :
    ((waitingFor none).fault = none ∧ (waitingFor none).returned = none ∧ (waitingFor none).mode = .awaitingKey 3) ∧
    (waitingFor none).keyHandler = none ∧ (waitingFor (some [])).keyHandler = some [] ∧
    (waitingFor (some [0xFF])).keyHandler = some (0xFF :: []) := by decide

theorem witness_JumpsGoToTheirTargets :
    { Config.params with jumpLandingOffset := .two }.jumpLandingOffset = .two := rfl

theorem witness_CallPushesTheReturnAddress :
    { State.reset with sp := 15 }.sp.val < 16 ∧ { State.reset with sp := 16 }.sp.val = 16 := by decide

theorem witness_RetPopsTheReturnAddress :
    0 < { State.reset with sp := 1 }.sp.val ∧ State.reset.sp.val = 0 := by decide

theorem witness_RetAfterCallComesBack :
    { State.reset with sp := 15 }.sp.val < 16 ∧
    Executes (.call 0x300) { State.reset with sp := 15 } (fun t => t.stack = t.stack ∧ t.sp.val = 16) :=
  ⟨by decide, _, rfl, by decide⟩

theorem witness_SkipStepMovesPcByFourOrTwo :
    (Runs (lastFetch 0x3000) (.sevxb 0 0) ∧ skipCondition (.sevxb 0 0) (lastFetch 0x3000) = some true) ∧
    (Runs (lastFetch 0xE09E) (.skp 0) ∧ skipCondition (.skp 0) (lastFetch 0xE09E) = some false) := by
  unfold Runs
  decide

theorem witness_KeySkipsReadTheKeypad :
    ((withRegs [(0, 0xF)]).reg 0).toNat < 16 ∧ ((withRegs [(0, 0x10)]).reg 0).toNat > 0xF := by decide

/-- For AddSetsTheCarry, SubtractionsSetNotBorrow, ShiftsSetTheBitShiftedOut. -/
theorem witness_destination_not_vf : (14 : RegIdx) ≠ vf := by decide

theorem witness_OtherParameterValuesDoAsTheirDecisionsSay :
    { Config.params with flagOrder := .resultThenFlag }.flagOrder = .resultThenFlag ∧
    { Config.params with logicVfReset := true }.logicVfReset = true ∧ (14 : RegIdx) ≠ vf ∧
    ({ Config.params with bulkIIncrement := true }.bulkIIncrement = true ∧ Memory.wf State.reset.mem = true ∧
      { State.reset with i := 0xFF0 }.i.toNat + (15 : RegIdx).val ≤ 0xFFF ∧
      { State.reset with i := 0xFF1 }.i.toNat + (15 : RegIdx).val > 0xFFF) ∧
    ({ Config.params with opcode0nnnPolicy := .nop }.opcode0nnnPolicy = .nop ∧ (lastFetch 0x0FFF).fault = none ∧
      (lastFetch 0x0FFF).mode = .ready ∧ (lastFetch 0x0FFF).pc.toNat ≤ 0xFFE ∧
      (lastFetch 0x0FFF).fetchWord.toNat < 0x1000 ∧ (lastFetch 0x0FFF).fetchWord ≠ 0x00E0 ∧
      (lastFetch 0x0FFF).fetchWord ≠ 0x00EE) := by decide

theorem witness_IndexInstructionsWriteI :
    { withRegs [(0, 1)] with i := 0xFFFE }.i.toNat + ((withRegs [(0, 1)]).reg 0).toNat ≤ 0xFFFF ∧
    { withRegs [(0, 1)] with i := 0xFFFF }.i.toNat + ((withRegs [(0, 1)]).reg 0).toNat > 0xFFFF := by decide

theorem witness_BcdStoresTheDecimalDigits :
    Memory.wf State.reset.mem = true ∧ { State.reset with i := 0xFFD }.i.toNat + 2 ≤ 0xFFF ∧
    { State.reset with i := 0xFFE }.i.toNat + 2 > 0xFFF := by decide

/-- For BulkStoreWritesTheRegisters and BulkLoadReadsTheRegisters. -/
theorem witness_BulkTransfers :
    Memory.wf State.reset.mem = true ∧ { State.reset with i := 0xFF0 }.i.toNat + (15 : RegIdx).val ≤ 0xFFF ∧
    { State.reset with i := 0xFF1 }.i.toNat + (15 : RegIdx).val > 0xFFF := by decide

theorem witness_BulkLoadAfterBulkStoreRestores :
    Memory.wf State.reset.mem = true ∧ { State.reset with i := 0xFFE }.i.toNat + (1 : RegIdx).val ≤ 0xFFF ∧
    Executes (.ldivx 1) { withRegs [(0, 7)] with i := 0xFFE } (fun t => t.mem = [(0xFFE, 7)] ∧ t.i = 0xFFE) :=
  ⟨by decide, by decide, _, rfl, by decide⟩

theorem witness_FetchSeesStoredBytes :
    (0 : RegIdx).val < (1 : RegIdx).val ∧
    Executes (.ldivx 1) { withRegs [(0, 0x12)] with i := 0xFFE, pc := 0xFFE } (fun t => t.pc.toNat = 0xFFE) :=
  ⟨by decide, _, rfl, by decide⟩

theorem witness_CanonicalMemoriesAreEqualWhenTheyReadEqual :
    Memory.wf [(0, 1), (0xFFF, 2)] = true ∧ (∀ a, a < memSize → Memory.read a [(0xFFF, 2)] = Memory.read a [(0xFFF, 2)]) ∧
      0xFFF < memSize := ⟨by decide, fun _ _ => rfl, by decide⟩

theorem witness_DrwXorsTheSprite :
    (15 < 16 ∧ { State.reset with i := 0xFF1 }.i.toNat + 15 - 1 ≤ 0xFFF) ∧
    (0 < 16 ∧ (0 = 0 ∨ { State.reset with i := 0xFFFF }.i.toNat + 0 - 1 ≤ 0xFFF)) ∧
    (15 > 0 ∧ { State.reset with i := 0xFF2 }.i.toNat + 15 - 1 > 0xFFF) := by decide

theorem witness_DrawingTwiceErasesTheSprite :
    15 < 16 ∧ (14 : RegIdx) ≠ vf ∧ State.reset.i.toNat + 15 - 1 ≤ 0xFFF ∧
      ∀ px py, State.reset.pix.get px py = false :=
  ⟨by decide, by decide, by decide, fun px py => by simp [State.reset, Display.get]⟩

theorem witness_OnlyDisplayInstructionsNotifyAndOnce :
    Executes .cls State.reset (fun _ => True) ∧ Executes (.drw 0 0 15) State.reset (fun _ => True) ∧
    ownFault (.drw 0 0 15) State.reset = none ∧ Executes .ret State.reset (fun _ => True) :=
  ⟨⟨_, rfl, trivial⟩, ⟨_, rfl, trivial⟩, by decide, _, rfl, trivial⟩

theorem witness_TimerMoves :
    Runs (lastFetch 0xF015) (.lddtvx 0) ∧ Runs (lastFetch 0xF018) (.ldstvx 0) ∧ Runs (lastFetch 0xF007) (.ldvxdt 0) := by
  unfold Runs
  decide

theorem witness_KeyWaitStoresTheAnswer :
    { State.reset with keyHandler := some [4] }.keyHandler = some (4 :: []) ∧ State.reset.keyHandler = none := by decide

/-- For OnlyDestinationRegistersChange and OnlyTheStoredBytesChange: one that writes registers, one that stores. -/
theorem witness_Frames :
    Executes (.addvxy 0 1) (withRegs [(0, 0xFF), (1, 1)]) (fun t => t.reg 0 = 0 ∧ t.reg 15 = 1) ∧
    Executes (.ldbvx 0) { withRegs [(0, 255)] with i := 0xFFD } (fun t => t.readByte 0xFFF = 5) :=
  ⟨⟨_, rfl, by decide⟩, _, rfl, by decide⟩

theorem witness_SpecialStateHasOnlyItsWriters :
    Executes (.ldi 0xFFF) State.reset (fun t => t.i ≠ State.reset.i) ∧
    Executes (.jp 0xFFF) State.reset (fun t => t.pc ≠ State.reset.pc) ∧
    Executes (.call 0) State.reset (fun t => t.stack ≠ State.reset.stack ∧ t.sp ≠ State.reset.sp) ∧
    Executes (.lddtvx 0) (withRegs [(0, 1)]) (fun t => t.dt ≠ State.reset.dt) ∧
    Executes (.ldstvx 0) (withRegs [(0, 1)]) (fun t => t.st ≠ State.reset.st) ∧
    Executes (.drw 0 0 1) State.reset (fun t => t.pix ≠ State.reset.pix) ∧
    Executes (.ldvxk 0) State.reset (fun t => t.mode ≠ State.reset.mode) ∧
    Executes (.ldvxk 0) (waitingFor (some [4])) (fun t => t.keyHandler ≠ (waitingFor (some [4])).keyHandler) ∧
    Executes (.rnd 0 0) State.reset (fun t => t.randomDraws ≠ State.reset.randomDraws) :=
  ⟨⟨_, rfl, by decide⟩, ⟨_, rfl, by decide⟩, ⟨_, rfl, by decide⟩, ⟨_, rfl, by decide⟩, ⟨_, rfl, by decide⟩,
    ⟨_, rfl, by decide⟩, ⟨_, rfl, by decide⟩, ⟨_, rfl, by decide⟩, _, rfl, by decide⟩

theorem witness_ResetLeavesTheStatedValues : 0x050 ≤ 0x050 ∧ 79 < Config.font.length := by decide

/-- For EveryStepKeepsTheInvariant: the invariant with a full stack and PC at the end of its range, and a step. -/
theorem witness_EveryStepKeepsTheInvariant :
    { State.reset with pc := 0x10FE, stack := Vector.replicate 16 0x1000, sp := 16 }.Inv ∧
    Steps { State.reset with pc := 0x10FE, stack := Vector.replicate 16 0x1000, sp := 16 } (fun _ => True) :=
  ⟨⟨rfl, by decide, by decide, by decide, by decide⟩, _, rfl, trivial⟩

theorem witness_ReachableStatesMeetTheInvariant : Reachable { State.reset with displayHandler := true } :=
  .move _ _ .reset (.setDisplayUpdateHandler _ rfl)

theorem witness_LoadMemoryCopiesTheProgram :
    State.reset.mode = .ready ∧ Memory.wf State.reset.mem = true ∧ (List.replicate 3584 (1 : Byte)).length ≤ 3584 ∧
    (List.replicate 3585 (1 : Byte)).length > 3584 :=
  ⟨rfl, rfl, List.length_replicate.le, by rw [List.length_replicate]; decide⟩

theorem witness_SetKeyIsTheOnlyWriterOfTheKeypad :
    (State.reset.mode = .ready ∧ 15 < 16 ∧ 16 ≥ 16) ∧ Steps State.reset (fun _ => True) ∧
    (∃ t, loadMemory [0x12] State.reset = .ok t) ∧ (∃ t, setKeyWaitHandler [4] State.reset = .ok t) ∧
    ∃ t, setDisplayUpdateHandler State.reset = .ok t :=
  ⟨by decide, ⟨_, rfl, trivial⟩, ⟨_, rfl⟩, ⟨_, rfl⟩, _, rfl⟩

theorem witness_FramebufferShowsThePixels : 2 < 3 ∧ (63 : Fin 64).val = 63 ∧ (64 > 63 ∨ 0 > 31) ∧ (0 > 63 ∨ 32 > 31) := by
  decide

theorem witness_StepCallsCompose :
    ((∃ t, hostStep 1 (lastFetch 0x1FFE) = .ok t) ∧ (∃ f t, hostStep 2 State.reset = .err f t) ∧
      ∃ t, hostStep 3 (lastFetch 0xF30A) = .waiting 3 t) ∧
    Steps (lastFetch 0x1FFE) (fun t => t.mode = .ready ∧ t.returned = none) ∧
    Steps (lastFetch 0x00EE) (fun t => t.mode = .ready ∧ t.returned = some (.stackUnderflow 0xFFE)) ∧
    Steps (lastFetch 0xF30A) (fun t => t.mode = .awaitingKey 3) ∧
    step { State.reset with fault := some (.stackUnderflow 0xFFE) } = .fault (.stackUnderflow 0xFFE) :=
  ⟨⟨⟨_, rfl⟩, ⟨_, _, rfl⟩, _, rfl⟩, ⟨_, rfl, rfl, rfl⟩, ⟨_, rfl, rfl, rfl⟩, ⟨_, rfl, rfl⟩, rfl⟩

theorem witness_HandlerOperationsWriteTheirHandlerOnly :
    State.reset.mode = .ready ∧ (waitingFor (some [])).keyHandler = some [] ∧ State.reset.keyHandler = none ∧
    ((waitingFor (some [])).fault = none ∧ (waitingFor (some [])).returned = none ∧
      (waitingFor (some [])).mode = .awaitingKey 3) := by decide

theorem witness_InspectionReadsTheNamedElement : 16 > 15 := by decide

theorem witness_EndOfRunStaysTheEndOfRun : (lastFetch 0x1FFE).endOfRun = true := by decide

theorem witness_PlacedWordIsTheOneTheStepRuns :
    Memory.wf State.reset.mem = true ∧ decodeTableWord 16 0x1FFE = some (.jp 0xFFE) := by decide

end Sys2Proof.Tests
end

section
/-! PROOF. The parameters of 00_scope.md R9: the machine at their defaults (O31) and what each other value does (O30). -/

namespace Sys2Proof.Machine

/-! ## The default parameters -/

theorem execWith_params : execWith Config.params = exec := by
  funext ins s
  cases ins <;> rfl

theorem stepWith_params : stepWith Config.params = step := by
  funext s
  rw [stepWith, execWith_params, step]

/-- Bytes that are the reset contents already leave no cell. -/
theorem Memory.writeAll_background_nil (a : Nat) (l : List Byte)
    (h : ∀ k (hk : k < l.length), l[k] = Memory.background (a + k)) : Memory.writeAll a l [] = [] := by
  induction l generalizing a with
  | nil => rfl
  | cons b l ih =>
    have hb : b = Memory.background a := h 0 (Nat.succ_pos _)
    have hw : Memory.write a b [] = [] := by simp [Memory.write, Memory.insert, hb]
    rw [Memory.writeAll, hw]
    refine ih (a + 1) fun k hk => ?_
    have := h (k + 1) (Nat.succ_lt_succ hk)
    rwa [List.getElem_cons_succ, ← Nat.add_assoc, Nat.add_right_comm] at this

theorem newCoreWith_params : newCoreWith Config.params = State.reset := by
  have hfont : Memory.writeAll fontBase Config.params.font.toList State.reset.mem = [] := by
    refine Memory.writeAll_background_nil fontBase Config.font fun k hk => ?_
    simp [Memory.background, fontBase, hk]
  rw [newCoreWith, hfont]
  rfl

/-- Settles O31: at the defaults the parametric Execute is `exec`, arm by arm, and every other claim follows from
that equation; the font it writes is what the reset memory reads already. -/
theorem defaultParametersGiveTheMachine : Obligations.DefaultParametersGiveTheMachine := by
  unfold Obligations.DefaultParametersGiveTheMachine
  refine ⟨fun ins s => ?_, fun s => ?_, fun n s => ?_, newCoreWith_params⟩
  · rw [execWith_params]
  · rw [stepWith_params]
  · rw [hostStepWith, stepWith_params, hostStep]

/-! ## A flag beside a result, in either order (FLAG_ORDER, LOGIC_VF_RESET) -/

section FlagOrder
variable (s : State) (o : FlagOrder) {x : RegIdx} (f r : Byte)

theorem reg_vf_setFlagAndResult (h : x ≠ vf) : (s.setFlagAndResult o x f r).reg vf = f := by
  cases o
  · rw [reg_setFlagAndResult_flagThenResult, if_neg h.symm, if_pos rfl]
  · rw [reg_setFlagAndResult_resultThenFlag, if_pos rfl]

theorem reg_dest_setFlagAndResult (h : x ≠ vf) : (s.setFlagAndResult o x f r).reg x = r := by
  cases o
  · rw [reg_setFlagAndResult_flagThenResult, if_pos rfl]
  · rw [reg_setFlagAndResult_resultThenFlag, if_neg h, if_pos rfl]

/-- When VF is the destination, it ends with what is written last. -/
theorem reg_vf_setFlagAndResult_vf :
    (s.setFlagAndResult o vf f r).reg vf = if o = .flagThenResult then r else f := by
  cases o
  · rw [reg_setFlagAndResult_flagThenResult, if_pos rfl, if_pos rfl]
  · rw [reg_setFlagAndResult_resultThenFlag, if_pos rfl, if_neg (by decide)]
end FlagOrder

/-- Execute of `ins` leaves the number f in VF and r in any other destination V[x], and changes nothing else. -/
def FlagEndsInVf (p : Params) (x : RegIdx) (s : State) (ins : Instr) (r f : Nat) : Prop :=
  ∃ t, execWith p ins s = .next t ∧ (t.reg vf).toNat = f ∧ (x ≠ vf → (t.reg x).toNat = r) ∧
    ChangesOnlyRegs [x, vf] s t

/-- Any instruction that writes a flag beside its result ends with the flag in VF under result_then_flag. -/
theorem flagEndsInVf {p : Params} {x : RegIdx} {s : State} {ins : Instr} {flag result : Byte} {r f : Nat}
    (ho : p.flagOrder = .resultThenFlag)
    (hex : execWith p ins s = .next (s.setFlagAndResult p.flagOrder x flag result))
    (hr : result.toNat = r) (hf : flag.toNat = f) : FlagEndsInVf p x s ins r f := by
  refine ⟨_, hex, ?_, fun hx => ?_, changesOnlyRegs_setFlagAndResult _ _ _ _ _⟩
  · rw [ho, reg_setFlagAndResult_resultThenFlag, if_pos rfl, hf]
  · rw [reg_dest_setFlagAndResult _ _ _ _ hx, hr]

theorem toNat_byte_sub (a b : Byte) : (a - b).toNat = (a.toNat + 256 - b.toNat) % 256 := by
  have := b.isLt
  rw [BitVec.toNat_sub]
  omega

theorem toNat_byte_shr (a : Byte) : (a >>> 1).toNat = a.toNat / 2 := by
  rw [BitVec.toNat_ushiftRight, Nat.shiftRight_eq_div_pow]

theorem toNat_byte_shl (a : Byte) : (a <<< 1).toNat = a.toNat * 2 % 256 := by
  rw [BitVec.toNat_shiftLeft, Nat.shiftLeft_eq]

theorem toNat_shiftOperand (p : Params) (x y : RegIdx) (s : State) :
    (shiftOperand p x y s).toNat = if p.shiftSource = .vx then (s.reg x).toNat else (s.reg y).toNat := by
  cases h : p.shiftSource <;> simp [shiftOperand, h]

/-- OR, AND and XOR under LOGIC_VF_RESET: VF is written like a flag that is 0. -/
theorem logicWith_vfReset {p : Params} (h : p.logicVfReset = true) (x : RegIdx) (r : Byte) (s : State) :
    logicWith p x r s = .next (s.setFlagAndResult p.flagOrder x 0 r) := by
  rw [logicWith, if_pos h]

/-! ## The bulk transfers under BULK_I_INCREMENT -/

theorem toNat_i_bulkIndex {p : Params} {s : State} {n : Nat} (hp : p.bulkIIncrement = true)
    (hn : s.i.toNat + n < 65536) : (s.bulkIndex p n).i.toNat = s.i.toNat + n := by
  rw [State.bulkIndex, if_pos hp, BitVec.toNat_add, BitVec.toNat_ofNat]
  omega

theorem storeRegs_bulkIndex_eq (p : Params) (s : State) (m n : Nat) : (s.storeRegs m).bulkIndex p n
    = { s with mem := ((s.storeRegs m).bulkIndex p n).mem, i := ((s.storeRegs m).bulkIndex p n).i } := by
  rw [storeRegs_eq, State.bulkIndex]
  split <;> rfl

theorem loadRegs_bulkIndex_eq (p : Params) (s : State) (m n : Nat) : (s.loadRegs m).bulkIndex p n
    = { s with v := ((s.loadRegs m).bulkIndex p n).v, i := ((s.loadRegs m).bulkIndex p n).i } := by
  rw [loadRegs_eq, State.bulkIndex]
  split <;> rfl

/-- A transfer of V[0] to V[x] is in range exactly when its last byte is. -/
theorem accessOk_bulk_iff (s : State) (x : RegIdx) :
    s.accessOk (x.val + 1) = true ↔ s.i.toNat + x.val ≤ 0xFFF := by
  rw [accessOk_iff]
  omega

section Bulk
variable {p : Params} {x : RegIdx} {s : State}

theorem execWith_ldivx_ok (h : s.i.toNat + x.val ≤ 0xFFF) :
    execWith p (.ldivx x) s = .next ((s.storeRegs (x.val + 1)).bulkIndex p (x.val + 1)) := by
  rw [execWith, ldivxWith, checkedAccess_ok _ ((accessOk_bulk_iff s x).2 h)]

theorem execWith_ldvxi_ok (h : s.i.toNat + x.val ≤ 0xFFF) :
    execWith p (.ldvxi x) s = .next ((s.loadRegs (x.val + 1)).bulkIndex p (x.val + 1)) := by
  rw [execWith, ldvxiWith, checkedAccess_ok _ ((accessOk_bulk_iff s x).2 h)]

theorem execWith_bulk_fault (h : s.i.toNat + x.val > 0xFFF) {ins : Instr} (hi : ins ∈ [Instr.ldivx x, .ldvxi x]) :
    execWith p ins s = .next { s with returned := some (.memoryOutOfRange s.i (x.val + 1)),
                                      fault := some (.memoryOutOfRange s.i (x.val + 1)) } := by
  have hno : s.accessOk (x.val + 1) = false :=
    Bool.eq_false_iff.2 fun hok => absurd ((accessOk_bulk_iff s x).1 hok) (by omega)
  simp only [List.mem_cons, List.not_mem_nil, or_false] at hi
  obtain rfl | rfl := hi
  · rw [execWith, ldivxWith, checkedAccess_fault _ hno]
  · rw [execWith, ldvxiWith, checkedAccess_fault _ hno]
end Bulk

/-! ## Illegal 0nnn words under OPCODE_0NNN_POLICY = nop -/

theorem fieldT_eq_zero {op : Word} (h : op.toNat < 0x1000) : fieldT op = 0 := by
  apply BitVec.eq_of_toNat_eq
  rw [toNat_fieldT, Nat.div_eq_of_lt h]
  rfl

/-- Family 0 holds CLS and RET only (30_encoding.md R107). -/
theorem decode_family0_illegal {op : Word} (h : fieldT op = 0) (hcls : op ≠ 0x00E0) (hret : op ≠ 0x00EE) :
    decode op = .error (.decodeError op) := by
  have hd : decode op = decodeFamily0 op := by
    rw [decode, h]
    rfl
  rw [hd, decodeFamily0, if_neg hcls, if_neg hret]

theorem runWord_illegal_nop {p : Params} {ex : Instr → State → Result} {op : Word} {e : DecodeReject}
    (hp : p.opcode0nnnPolicy = .nop) (ht : fieldT op = 0) (hd : decode op = .error e) (s : State) :
    runWord p ex op s = endOf (.next s) := by
  simp only [runWord, hd, illegalWord]
  rw [if_pos ⟨hp, ht⟩]

/-! ## Every other value -/

/-- R9, FLAG_ORDER (92_eei_decisions.md D2, D3). -/
theorem flagInstructions_resultThenFlag (p : Params) (x y : RegIdx) (s : State) (a b : Nat)
    (ho : p.flagOrder = .resultThenFlag) (ha : a = (s.reg x).toNat) (hb : b = (s.reg y).toNat) :
    ∀ ins r f, (ins, r, f) ∈ [
        (Instr.addvxy x y, (a + b) % 256, if a + b > 0xFF then 1 else 0),
        (.subvxy x y, (a + 256 - b) % 256, if a > b then 1 else 0),
        (.subn x y, (b + 256 - a) % 256, if b > a then 1 else 0),
        (.shr x y, (if p.shiftSource = .vx then a else b) / 2, (if p.shiftSource = .vx then a else b) % 2),
        (.shl x y, (if p.shiftSource = .vx then a else b) * 2 % 256, (if p.shiftSource = .vx then a else b) / 128)] →
      FlagEndsInVf p x s ins r f := by
  subst ha hb
  intro ins r f hmem
  simp only [List.mem_cons, List.not_mem_nil, or_false, Prod.mk.injEq] at hmem
  obtain ⟨rfl, rfl, rfl⟩ | ⟨rfl, rfl, rfl⟩ | ⟨rfl, rfl, rfl⟩ | ⟨rfl, rfl, rfl⟩ | ⟨rfl, rfl, rfl⟩ := hmem
  · exact flagEndsInVf ho rfl (BitVec.toNat_add _ _) (toNat_carryFlag _ _)
  · exact flagEndsInVf ho rfl (toNat_byte_sub _ _) (toNat_notBorrowFlag _ _)
  · exact flagEndsInVf ho rfl (toNat_byte_sub _ _) (toNat_notBorrowFlag _ _)
  · rw [← toNat_shiftOperand]
    exact flagEndsInVf ho rfl (toNat_byte_shr _) (toNat_shrFlag _)
  · rw [← toNat_shiftOperand]
    exact flagEndsInVf ho rfl (toNat_byte_shl _) (toNat_shlFlag _)

/-- R9, LOGIC_VF_RESET (92_eei_decisions.md D4; log 12). -/
theorem logicInstructions_vfReset (p : Params) (x y : RegIdx) (s : State) (hp : p.logicVfReset = true) :
    ∀ ins r, (ins, r) ∈ [(Instr.or x y, s.reg x ||| s.reg y), (.and x y, s.reg x &&& s.reg y),
        (.xor x y, s.reg x ^^^ s.reg y)] →
      ∃ t, execWith p ins s = .next t ∧ (x ≠ vf → t.reg vf = 0 ∧ t.reg x = r) ∧
        (x = vf → t.reg vf = if p.flagOrder = .flagThenResult then r else 0) ∧ ChangesOnlyRegs [x, vf] s t := by
  intro ins r hmem
  have hex : execWith p ins s = .next (s.setFlagAndResult p.flagOrder x 0 r) := by
    simp only [List.mem_cons, List.not_mem_nil, or_false, Prod.mk.injEq] at hmem
    obtain ⟨rfl, rfl⟩ | ⟨rfl, rfl⟩ | ⟨rfl, rfl⟩ := hmem <;> exact logicWith_vfReset hp x _ s
  refine ⟨_, hex, fun hx => ⟨?_, ?_⟩, fun hx => ?_, changesOnlyRegs_setFlagAndResult _ _ _ _ _⟩
  · exact reg_vf_setFlagAndResult _ _ _ _ hx
  · exact reg_dest_setFlagAndResult _ _ _ _ hx
  · subst hx
    exact reg_vf_setFlagAndResult_vf _ _ _ _

/-- R9, BULK_I_INCREMENT, the store (92_eei_decisions.md D6; log 21). -/
theorem ldivx_bulkIIncrement {p : Params} {x : RegIdx} {s : State} (hp : p.bulkIIncrement = true)
    (h : s.i.toNat + x.val ≤ 0xFFF) (hw : Memory.wf s.mem = true) : ∃ t, execWith p (.ldivx x) s = .next t ∧
      t.i.toNat = s.i.toNat + x.val + 1 ∧
      (∀ k : RegIdx, k.val ≤ x.val → t.readByte (s.i.toNat + k.val) = s.reg k) ∧
      SameMemoryOutside s.i.toNat (x.val + 1) s t ∧ t = { s with mem := t.mem, i := t.i } := by
  refine ⟨_, execWith_ldivx_ok h, ?_, fun k hk => ?_, fun a ha => ?_, storeRegs_bulkIndex_eq p s _ _⟩
  · rw [toNat_i_bulkIndex hp (by rw [storeRegs_i]; omega), storeRegs_i, Nat.add_assoc]
  · rw [readByte_bulkIndex, readByte_storeRegs_inside s _ _ hw (by omega) (by rw [memSize]; omega), regOfNat_val]
  · rw [readByte_bulkIndex, readByte_storeRegs_outside s _ _ ha]

/-- R9, BULK_I_INCREMENT, the load (92_eei_decisions.md D6; log 21). -/
theorem ldvxi_bulkIIncrement {p : Params} {x : RegIdx} {s : State} (hp : p.bulkIIncrement = true)
    (h : s.i.toNat + x.val ≤ 0xFFF) : ∃ t, execWith p (.ldvxi x) s = .next t ∧ t.i.toNat = s.i.toNat + x.val + 1 ∧
      (∀ k : RegIdx, k.val ≤ x.val → t.reg k = s.readByte (s.i.toNat + k.val)) ∧
      (∀ k : RegIdx, x.val < k.val → t.reg k = s.reg k) ∧ SameMemory s t ∧ t = { s with v := t.v, i := t.i } := by
  have hreg := reg_loadRegs s (x.val + 1) (by omega)
  refine ⟨_, execWith_ldvxi_ok h, ?_, fun k hk => ?_, fun k hk => ?_, fun a => ?_, loadRegs_bulkIndex_eq p s _ _⟩
  · rw [toNat_i_bulkIndex hp (by rw [loadRegs_i]; omega), loadRegs_i, Nat.add_assoc]
  · rw [reg_bulkIndex, hreg, if_pos (by omega)]
  · rw [reg_bulkIndex, hreg, if_neg (by omega)]
  · rw [readByte_bulkIndex, readByte_loadRegs]

/-- R9, OPCODE_0NNN_POLICY (92_eei_decisions.md D1; log 13). -/
theorem stepWith_illegal_nop {p : Params} {s : State} (hp : p.opcode0nnnPolicy = .nop) (hf : s.fault = none)
    (hm : s.mode = .ready) (hpc : s.pc.toNat ≤ 0xFFE) (hop : s.fetchWord.toNat < 0x1000)
    (hcls : s.fetchWord ≠ 0x00E0) (hret : s.fetchWord ≠ 0x00EE) :
    stepWith p s = endOf (.next { s with pc := s.pc + 2, returned := none }) := by
  have ht := fieldT_eq_zero hop
  rw [stepWith, cycle_fetches hf hm (fetchOk_iff.2 hpc),
    runWord_illegal_nop hp ht (decode_family0_illegal ht hcls hret)]
  rfl

/-- Settles O30, one lemma per parameter: each reduces the instructions the parameter reaches to one shared operation
(a flag beside a result, a checked bulk transfer, an illegal word) and reads the outcome off that operation's laws. -/
theorem otherParameterValuesDoAsTheirDecisionsSay : Obligations.OtherParameterValuesDoAsTheirDecisionsSay := by
  unfold Obligations.OtherParameterValuesDoAsTheirDecisionsSay
  refine ⟨flagInstructions_resultThenFlag, logicInstructions_vfReset, fun p x s hp => ⟨?_, ?_, ?_⟩, ?_⟩
  · exact ldivx_bulkIIncrement hp
  · exact ldvxi_bulkIIncrement hp
  · exact fun h ins hi => execWith_bulk_fault h hi
  · exact fun p s => stepWith_illegal_nop

end Sys2Proof.Machine
end

section
/-! PROOF. What Execute can do, said once for all 34 instructions: it raises the instruction's own fault, or it has the
effect of its group. The register frame (O45) and the writers of the special state (O47) are read off it. -/

namespace Sys2Proof.Machine

/-! ## The effects -/

/-- What an instruction that raises no fault may change, by the part of the state it writes: one that writes registers
only is bounded by its frame (`regs`, which does not say the values written), every other is given by the state it
leaves. -/
inductive Effect (s : State) : Instr → State → Prop
  | regs {ins : Instr} {t : State} (h : ChangesOnlyRegs (destRegs ins) s t) : Effect s ins t
  | rnd (x : RegIdx) (kk : Byte) : Effect s (.rnd x kk) (s.afterRandomByte.setReg x (s.randomByte &&& kk))
  | skip {ins : Instr} {c : Bool} (h : skipCondition ins s = some c) : Effect s ins (s.skipIf c)
  | jp (nnn : BitVec 12) : Effect s (.jp nnn) { s with pc := zextNnn nnn }
  | jr (nnn : BitVec 12) : Effect s (.jr nnn) { s with pc := zextNnn nnn + zextByte (s.reg 0) }
  | call (nnn : BitVec 12) (h : s.sp.val < 16) : Effect s (.call nnn) { s.pushReturn h with pc := zextNnn nnn }
  | ret (h : 0 < s.sp.val) : Effect s .ret (s.popReturn h)
  | ldi (nnn : BitVec 12) : Effect s (.ldi nnn) { s with i := zextNnn nnn }
  | addivx (x : RegIdx) : Effect s (.addivx x) { s with i := BitVec.ofNat 16 (s.i.toNat + (s.reg x).toNat) }
  | ldfvx (x : RegIdx) : Effect s (.ldfvx x) { s with i := 5 * zextByte (s.reg x) }
  | lddtvx (x : RegIdx) : Effect s (.lddtvx x) { s with dt := s.reg x }
  | ldstvx (x : RegIdx) : Effect s (.ldstvx x) { s with st := s.reg x }
  | ldbvx (x : RegIdx) : Effect s (.ldbvx x) (s.storeDigits x)
  | ldivx (x : RegIdx) : Effect s (.ldivx x) (s.storeRegs (x.val + 1))
  | cls : Effect s .cls { s with pix := Display.clear }.notifyDisplay
  | drw (x y : RegIdx) (n : Nat) : Effect s (.drw x y n) (s.drawSprite x y n)
  | ldvxk (x : RegIdx) : Effect s (.ldvxk x) (s.awaitKey x)

/-- A bulk load writes V[0] to V[x] and nothing else. -/
theorem changesOnlyRegs_loadRegs (s : State) (x : RegIdx) :
    ChangesOnlyRegs (destRegs (.ldvxi x)) s (s.loadRegs (x.val + 1)) := by
  refine ⟨loadRegs_eq _ _, fun k hk => ?_, fun _ => by simp⟩
  rw [reg_loadRegs s _ (by omega), if_neg]
  intro hlt
  exact hk (List.mem_map.2 ⟨k.val, List.mem_range.2 hlt, regOfNat_val k⟩)

/-- What an Execute that answers `r` comes to: the instruction's own fault and nothing else, or its effect. -/
def Executed (ins : Instr) (s : State) (r : Result) : Prop :=
  (∃ f, ownFault ins s = some f ∧ r = raise f s) ∨ ownFault ins s = none ∧ ∃ t, Effect s ins t ∧ r = .next t

section Executed
variable {ins : Instr} {s t : State}

theorem Executed.effect (hf : ownFault ins s = none) (he : Effect s ins t) : Executed ins s (.next t) :=
  .inr ⟨hf, t, he, rfl⟩

theorem Executed.regs (hf : ownFault ins s = none) {x : RegIdx} {b : Byte} (hd : destRegs ins = [x]) :
    Executed ins s (.next (s.setReg x b)) :=
  .effect hf (.regs (hd ▸ changesOnlyRegs_setReg s x b))

theorem Executed.flagAndResult (hf : ownFault ins s = none) {o : FlagOrder} {x : RegIdx} {f r : Byte}
    (hd : destRegs ins = [x, vf]) : Executed ins s (.next (s.setFlagAndResult o x f r)) :=
  .effect hf (.regs (hd ▸ changesOnlyRegs_setFlagAndResult s o x f r))

/-- A checked transfer, whose fault is MemoryOutOfRange exactly when the check fails. -/
theorem Executed.checked {len : Nat} {body : State → State} {c : Prop} [Decidable c]
    (hf : ownFault ins s = if c then some (.memoryOutOfRange s.i len) else none)
    (hc : c ↔ ¬ (len = 0 ∨ s.i.toNat + len - 1 ≤ 0xFFF)) (he : Effect s ins (body s)) :
    Executed ins s (checkedAccess len body s) := by
  rw [← accessOk_iff] at hc
  by_cases h : s.accessOk len = true
  · rw [checkedAccess, if_pos h]
    exact .effect (by rw [hf, if_neg (by simp [hc, h])]) he
  · rw [checkedAccess, if_neg h]
    exact .inl ⟨_, by rw [hf, if_pos (hc.2 h)], rfl⟩

end Executed

theorem executed_skipOnKey {ins : Instr} {s : State} {x : RegIdx} {down : Bool}
    (hf : ownFault ins s = if (s.reg x).toNat > 0xF then some (.keyIndexOutOfRange (s.reg x)) else none)
    (hc : skipCondition ins s = (s.keys[(s.reg x).toNat]?).map (· == down)) :
    Executed ins s (skipOnKey down x s) := by
  by_cases h : (s.reg x).toNat < 16
  · rw [skipOnKey_ok _ h]
    exact .effect (by rw [hf, if_neg (by omega)]) (.skip (by simp [hc, h]))
  · rw [skipOnKey_fault _ h]
    exact .inl ⟨_, by rw [hf, if_pos (by omega)], rfl⟩

theorem executed_call (nnn : BitVec 12) (s : State) : Executed (.call nnn) s (execCall nnn s) := by
  by_cases h : s.sp.val < 16
  · rw [execCall_push nnn h]
    exact .effect (if_neg (by omega)) (.call nnn h)
  · have h : s.sp.val = 16 := by omega
    rw [execCall_overflow nnn h]
    exact .inl ⟨_, if_pos h, rfl⟩

theorem executed_ret (s : State) : Executed .ret s (execRet s) := by
  by_cases h : 0 < s.sp.val
  · rw [execRet_pop h]
    exact .effect (if_neg (by omega)) (.ret h)
  · have h : s.sp.val = 0 := by omega
    rw [execRet_underflow h]
    exact .inl ⟨_, if_pos h, rfl⟩

theorem executed_addivx (x : RegIdx) (s : State) : Executed (.addivx x) s (execAddivx x s) := by
  by_cases h : s.i.toNat + (s.reg x).toNat > 0xFFFF
  · rw [execAddivx_overflow h]
    exact .inl ⟨_, if_pos h, rfl⟩
  · rw [execAddivx_ok h]
    exact .effect (if_neg h) (.addivx x)

/-- Execute raises the instruction's own fault, or has its effect. -/
theorem executed_exec (ins : Instr) (s : State) : Executed ins s (exec ins s) := by
  cases ins with
  | cls => exact .effect rfl .cls
  | ret => exact executed_ret s
  | jp nnn => rw [exec, execJp_eq]; exact .effect rfl (.jp nnn)
  | call nnn => exact executed_call nnn s
  | sevxb x kk => exact .effect rfl (.skip rfl)
  | snevxb x kk => exact .effect rfl (.skip (congrArg some decide_not))
  | sevxy x y => exact .effect rfl (.skip rfl)
  | snevxy x y => exact .effect rfl (.skip (congrArg some decide_not))
  | ldvxb x kk => exact .regs rfl rfl
  | addvxb x kk => exact .regs rfl rfl
  | ldvxy x y => exact .regs rfl rfl
  | or x y => exact .regs rfl rfl
  | and x y => exact .regs rfl rfl
  | xor x y => exact .regs rfl rfl
  | addvxy x y => exact .flagAndResult rfl rfl
  | subvxy x y => exact .flagAndResult rfl rfl
  | shr x y => exact .flagAndResult rfl rfl
  | subn x y => exact .flagAndResult rfl rfl
  | shl x y => exact .flagAndResult rfl rfl
  | ldi nnn => exact .effect rfl (.ldi nnn)
  | jr nnn => exact .effect rfl (.jr nnn)
  | rnd x kk => exact .effect rfl (.rnd x kk)
  | drw x y n => exact Executed.checked (ins := .drw x y n) (body := (·.drawSprite x y n)) rfl (by omega) (.drw x y n)
  | skp x => exact executed_skipOnKey rfl (by simp [skipCondition])
  | sknp x => exact executed_skipOnKey rfl (by simp [skipCondition])
  | ldvxdt x => exact .regs rfl rfl
  | ldvxk x => exact .effect rfl (.ldvxk x)
  | lddtvx x => exact .effect rfl (.lddtvx x)
  | ldstvx x => exact .effect rfl (.ldstvx x)
  | addivx x => exact executed_addivx x s
  | ldfvx x => exact .effect rfl (.ldfvx x)
  | ldbvx x => exact Executed.checked (ins := .ldbvx x) (body := (·.storeDigits x)) rfl (by omega) (.ldbvx x)
  | ldivx x => exact Executed.checked (ins := .ldivx x) (body := (·.storeRegs (x.val + 1))) rfl (by omega) (.ldivx x)
  | ldvxi x =>
    exact Executed.checked (ins := .ldvxi x) (body := (·.loadRegs (x.val + 1))) rfl (by omega)
      (.regs (changesOnlyRegs_loadRegs s x))

/-- Everything Execute can do, for one that answers a next state: the instruction's own fault is raised and nothing else
happens, or it has none and its effect happens. -/
theorem exec_cases {ins : Instr} {s t : State} (h : exec ins s = .next t) :
    (∃ f, ownFault ins s = some f ∧ t = s.enterFault f) ∨ ownFault ins s = none ∧ Effect s ins t := by
  obtain ⟨f, hf, he⟩ | ⟨hf, u, hu, he⟩ := executed_exec ins s
  · rw [h, raise_eq] at he
    exact .inl ⟨f, hf, by injection he⟩
  · rw [h] at he
    injection he with he
    exact .inr ⟨hf, he ▸ hu⟩

/-! ## The register frame -/

/-- No effect writes a register but the instruction's destinations. -/
theorem Effect.sameRegsBut {ins : Instr} {s t : State} (h : Effect s ins t) : SameRegsBut (destRegs ins) s t := by
  cases h with
  | regs h => exact h.2.1
  | rnd x kk => exact fun k hk => reg_setReg_ne _ _ (by simpa [destRegs] using hk)
  | skip => exact fun k _ => by simp
  | call nnn h => exact fun k _ => rfl
  | ldivx x => exact fun k _ => by simp
  | drw x y n => exact fun k hk => by rw [reg_drawSprite, if_neg (by simpa [destRegs] using hk)]
  | ldvxk x =>
    intro k hk
    obtain ⟨-, e⟩ | ⟨b, rest, -, e⟩ := awaitKey_cases s x
    · rw [e]; rfl
    · rw [e]; exact reg_setReg_ne _ _ (by simpa [destRegs] using hk)
  | _ => exact fun k _ => rfl

/-- Settles O45: a fault writes no register, and the effect of an instruction without one writes its destinations. -/
theorem onlyDestinationRegistersChange : Obligations.OnlyDestinationRegistersChange := by
  unfold Obligations.OnlyDestinationRegistersChange
  intro ins s t h
  obtain ⟨f, -, rfl⟩ | ⟨-, he⟩ := exec_cases h
  · exact fun k _ => reg_enterFault s f k
  · exact he.sameRegsBut

/-! ## The writers of the special state -/

/-- The instructions that have a skip condition. -/
theorem isSkip_of_skipCondition {ins : Instr} {s : State} {c : Bool} (h : skipCondition ins s = some c) :
    (∃ x kk, ins = .sevxb x kk) ∨ (∃ x kk, ins = .snevxb x kk) ∨ (∃ x y, ins = .sevxy x y) ∨
      (∃ x y, ins = .snevxy x y) ∨ (∃ x, ins = .skp x) ∨ ∃ x, ins = .sknp x := by
  cases ins <;> simp [skipCondition] at h ⊢

/-- Settles O47: a fault writes none of these elements, and each effect only those of its group. -/
theorem specialStateHasOnlyItsWriters : Obligations.SpecialStateHasOnlyItsWriters := by
  unfold Obligations.SpecialStateHasOnlyItsWriters
  intro ins s t h
  obtain ⟨f, -, rfl⟩ | ⟨-, he⟩ := exec_cases h
  · simp
  · cases he with
    | regs h =>
      rw [h.1]
      simp
    | @skip _ c hc =>
      have hskip := isSkip_of_skipCondition hc
      cases c with
      | true => simp [State.skipIf, hskip]
      | false => simp [State.skipIf]
    | _ => simp

end Sys2Proof.Machine
end

section
/-! PROOF. The invariant of the core: it holds at reset (O49), every step keeps it (O50), and so does every host
operation, so every reachable state meets it (O51). -/

namespace Sys2Proof.Machine

/-! ## The part of the invariant that Execute can touch -/

/-- Memory canonical, PC at most `pcMax`, every return address at most 0x1000 (10_state.md R37). After a fetch PC is at
most 0x1000, after Execute at most 0x10FE. -/
structure State.InRange (pcMax : Nat) (s : State) : Prop where
  memory  : Memory.wf s.mem = true
  pcRange : s.pc.toNat ≤ pcMax
  slots   : ∀ k : Fin 16, (s.stack[k]).toNat ≤ 0x1000

variable {s t : State}

theorem State.Inv.inRange (h : s.Inv) : s.InRange 0x10FE := ⟨h.memory, h.pcRange, h.slots⟩

/-- A fetch that is in range leaves PC at most 0x1000. -/
theorem State.Inv.fetched (h : s.Inv) (hok : s.fetchOk = true) : s.beginCycle.fetched.InRange 0x1000 := by
  have hpc := fetchOk_iff.1 hok
  refine ⟨h.memory, ?_, h.slots⟩
  rw [fetched_pc, beginCycle_pc, toNat_pc_add_two _ (by omega)]
  omega

/-- A state that keeps memory and the stack is in the range its PC is in. -/
theorem State.InRange.of_pc {m n : Nat} (h : s.InRange m) (hm : t.mem = s.mem) (hs : t.stack = s.stack)
    (hp : t.pc.toNat ≤ n) : t.InRange n :=
  ⟨hm ▸ h.memory, hp, hs ▸ h.slots⟩

theorem State.InRange.mono {m n : Nat} (h : s.InRange m) (hmn : m ≤ n) : s.InRange n :=
  h.of_pc rfl rfl (h.pcRange.trans hmn)

/-- A CALL pushes a PC of the fetch's range, so every slot stays a return address. -/
theorem State.InRange.slots_pushReturn (h : s.InRange 0x1000) (hsp : s.sp.val < 16) (k : Fin 16) :
    ((s.pushReturn hsp).stack[k]).toNat ≤ 0x1000 := by
  by_cases hk : s.sp.val = k.val
  · simpa [hk] using h.pcRange
  · simpa [hk] using h.slots k

/-- No effect leaves the range: the furthest PC is JR's, 0xFFF + 0xFF. -/
theorem Effect.inRange {ins : Instr} (he : Effect s ins t) (h : s.InRange 0x1000) : t.InRange 0x10FE := by
  have hpc := h.pcRange
  have hmax : s.pc.toNat ≤ 0x10FE := hpc.trans (by decide)
  cases he with
  | regs hregs =>
    rw [hregs.1]
    exact h.of_pc rfl rfl hmax
  | @skip _ c =>
    rw [skipIf_eq]
    refine h.of_pc rfl rfl ?_
    cases c with
    | true => simp only [if_true]; rw [toNat_pc_add_two _ (by omega)]; omega
    | false => exact hmax
  | jp nnn =>
    have := nnn.isLt
    refine h.of_pc rfl rfl ?_
    simp only [toNat_zextNnn]
    omega
  | jr nnn =>
    have := nnn.isLt
    have := (s.reg 0).isLt
    refine h.of_pc rfl rfl ?_
    simp only [BitVec.toNat_add, toNat_zextNnn, toNat_zextByte]
    omega
  | call nnn hsp =>
    have := nnn.isLt
    refine ⟨h.memory, ?_, h.slots_pushReturn hsp⟩
    simp only [toNat_zextNnn]
    omega
  | ret hsp => exact h.of_pc rfl rfl ((h.slots ⟨s.sp.val - 1, by omega⟩).trans (by decide))
  | ldbvx x => exact ⟨wf_storeDigits s x h.memory, hmax, h.slots⟩
  | ldivx x => exact ⟨wf_storeRegs s _ h.memory, by rwa [storeRegs_pc], by rw [storeRegs_stack]; exact h.slots⟩
  | ldvxk x => exact h.of_pc (awaitKey_mem s x) (awaitKey_stack s x) (by rwa [awaitKey_pc])
  | _ => exact h.of_pc rfl rfl hmax

/-! ## Faults and what a cycle returns -/

/-- No effect raises a fault. -/
theorem Effect.fault_returned {ins : Instr} (he : Effect s ins t) : t.fault = s.fault ∧ t.returned = s.returned := by
  cases he with
  | regs h =>
    rw [h.1]
    exact ⟨rfl, rfl⟩
  | _ => simp

/-- A state in range whose last cycle raised no fault meets the invariant. -/
theorem State.InRange.inv (h : s.InRange 0x10FE) (hf : s.fault = none) (hr : s.returned = none) : s.Inv :=
  ⟨h.memory, h.pcRange, h.slots, fun _ hf' => absurd (hf.symm.trans hf') nofun, fun _ => hr⟩

/-- So does one that has just entered a fault, in mode Ready and with no fault before it. -/
theorem State.InRange.inv_enterFault (h : s.InRange 0x10FE) (f : Fault) (hf : s.fault = none)
    (hm : s.mode = .ready) : (s.enterFault f).Inv := by
  refine ⟨h.memory, h.pcRange, h.slots, fun g hg => ?_, fun hm' => absurd hm hm'⟩
  rw [enterFault_fault, hf] at hg
  split at hg
  · obtain rfl : f = g := by injection hg
    exact ⟨‹_›, rfl, hm⟩
  · cases hg

/-- Execute after an in-range fetch, in mode Ready and with no fault. -/
theorem inv_exec {ins : Instr} (h : exec ins s = .next t) (hr : s.InRange 0x1000) (hm : s.mode = .ready)
    (hf : s.fault = none) (hret : s.returned = none) : t.Inv := by
  obtain ⟨f, -, rfl⟩ | ⟨-, he⟩ := exec_cases h
  · exact (hr.mono (by decide)).inv_enterFault f hf hm
  · obtain ⟨hf', hret'⟩ := he.fault_returned
    exact (he.inRange hr).inv (hf'.trans hf) (hret'.trans hret)

/-! ## The invariant under steps -/

/-- A state that keeps the fields the invariant speaks of meets it. -/
theorem State.Inv.keep (h : s.Inv) (hmem : Memory.wf t.mem = true) (hpc : t.pc = s.pc) (hst : t.stack = s.stack)
    (hf : t.fault = s.fault) (hr : t.returned = s.returned) (hm : t.mode = s.mode) : t.Inv :=
  ⟨hmem, hpc ▸ h.pcRange, hst ▸ h.slots, by rw [hf, hr, hm]; exact h.faulted, by rw [hm, hr]; exact h.waiting⟩

theorem State.Inv.endCycle (h : s.Inv) : s.endCycle.Inv :=
  h.keep (by simpa using h.memory) (by simp) (by simp) (by simp) (by simp) (by simp)

theorem endOf_eq_next {r : Result} (h : endOf r = .next t) : ∃ u, r = .next u ∧ t = u.endCycle := by
  cases r with
  | next u =>
    injection h with h
    exact ⟨u, rfl, h.symm⟩
  | fault f => cases h
  | refused r => cases h

/-- Settles O50: each case of a step ends in a fault's entry or in a state with no fault, and in range. -/
theorem everyStepKeepsTheInvariant : Obligations.EveryStepKeepsTheInvariant := by
  unfold Obligations.EveryStepKeepsTheInvariant
  intro s t hinv hstep
  obtain ⟨hf, ⟨x, -, rfl⟩ | ⟨hm, -, rfl⟩ | ⟨hm, hok, -, rfl⟩ | ⟨hm, hok, ins, -, he⟩⟩ := step_cases hstep
  · have hwait : (s.beginCycle.awaitKey x).InRange 0x10FE :=
      hinv.inRange.of_pc (awaitKey_mem _ x) (awaitKey_stack _ x) (by rw [awaitKey_pc]; exact hinv.pcRange)
    exact (hwait.inv (by simp [hf]) (by simp)).endCycle
  · have hbegin : s.beginCycle.InRange 0x10FE := hinv.inRange.of_pc rfl rfl hinv.pcRange
    exact hbegin.inv_enterFault _ hf hm
  · exact ((hinv.fetched hok).mono (by decide)).inv_enterFault _ hf hm
  · obtain ⟨u, hu, rfl⟩ := endOf_eq_next he
    exact (inv_exec hu (hinv.fetched hok) hm hf rfl).endCycle

/-- Settles O49. -/
theorem resetMeetsTheInvariant : Obligations.ResetMeetsTheInvariant := by
  unfold Obligations.ResetMeetsTheInvariant
  have hrange : State.reset.InRange 0x10FE := ⟨wf_reset, by decide, fun k => by simp [State.reset]⟩
  exact hrange.inv rfl rfl

/-! ## The invariant under the host's operations -/

theorem betweenSteps_ok {r : Except HostError State} (h : betweenSteps s r = .ok t) : s.mode = .ready ∧ r = .ok t := by
  unfold betweenSteps at h
  split at h
  · exact ⟨‹_›, h⟩
  · cases h

theorem loadMemory_ok {bytes : List Byte} (h : loadMemory bytes s = .ok t) :
    bytes.length ≤ maxRom ∧ t = { s with mem := Memory.writeAll progBase bytes s.mem } := by
  have hok := (betweenSteps_ok h).2
  split at hok
  · cases hok
  · injection hok with hok
    exact ⟨Nat.le_of_not_lt ‹_›, hok.symm⟩

theorem setKey_ok {index : Nat} {pressed : Bool} (h : setKey index pressed s = .ok t) :
    ∃ hi : index < 16, t = { s with keys := s.keys.set index pressed hi } := by
  have hok := (betweenSteps_ok h).2
  split at hok
  · injection hok with hok
    exact ⟨‹_›, hok.symm⟩
  · cases hok

theorem setKeyWaitHandler_ok {answers : List Byte} (h : setKeyWaitHandler answers s = .ok t) :
    t = { s with keyHandler := some answers } := by
  injection (betweenSteps_ok h).2 with hok
  exact hok.symm

theorem setDisplayUpdateHandler_ok (h : setDisplayUpdateHandler s = .ok t) : t = { s with displayHandler := true } := by
  injection (betweenSteps_ok h).2 with hok
  exact hok.symm

/-- Every move of the core and its host keeps the invariant. -/
theorem Moves.inv (hmove : Moves s t) (hinv : s.Inv) : t.Inv := by
  cases hmove with
  | step t h => exact everyStepKeepsTheInvariant s t hinv h
  | loadMemory bytes t h =>
    obtain ⟨-, rfl⟩ := loadMemory_ok h
    exact hinv.keep (Memory.wf_writeAll _ _ hinv.memory) rfl rfl rfl rfl rfl
  | setKey index pressed t h =>
    obtain ⟨_, rfl⟩ := setKey_ok h
    exact hinv.keep hinv.memory rfl rfl rfl rfl rfl
  | setKeyWaitHandler answers t h =>
    obtain rfl := setKeyWaitHandler_ok h
    exact hinv.keep hinv.memory rfl rfl rfl rfl rfl
  | setDisplayUpdateHandler t h =>
    obtain rfl := setDisplayUpdateHandler_ok h
    exact hinv.keep hinv.memory rfl rfl rfl rfl rfl
  | answerKey b => exact hinv.keep hinv.memory rfl rfl rfl rfl rfl

/-- Settles O51, by induction on the moves from reset. -/
theorem reachableStatesMeetTheInvariant : Obligations.ReachableStatesMeetTheInvariant := by
  unfold Obligations.ReachableStatesMeetTheInvariant
  intro s hs
  induction hs with
  | reset => exact resetMeetsTheInvariant
  | move s t _ hmove ih => exact hmove.inv ih

end Sys2Proof.Machine
end

section
/-! PROOF. The framebuffer as a view of the pixels (O54) and the host's handler operations (O58). -/

namespace Sys2Proof.Machine

/-! ## A list of blocks of one length -/

/-- Byte r of block k of a list whose elements each give a block of n bytes. -/
theorem getElem?_flatMap_blocks {α β : Type} {f : α → List β} {n : Nat} (hf : ∀ a, (f a).length = n) (l : List α)
    (k r : Nat) (hr : r < n) : (l.flatMap f)[k * n + r]? = l[k]?.bind fun a => (f a)[r]? := by
  induction l generalizing k with
  | nil => simp
  | cons a l ih =>
    rw [List.flatMap_cons]
    cases k with
    | zero =>
      rw [Nat.zero_mul, Nat.zero_add, List.getElem?_append_left (by rw [hf]; exact hr)]
      rfl
    | succ k =>
      rw [List.getElem?_append_right (by rw [hf, Nat.succ_mul]; omega), hf,
        show (k + 1) * n + r - n = k * n + r by rw [Nat.succ_mul]; omega, ih, List.getElem?_cons_succ]

/-! ## The framebuffer -/

theorem rowBytes_length (row : Vector Bool 64) : (rowBytes row).length = 192 := by
  simp [rowBytes, List.length_flatMap]

theorem displayBuffer_length (s : State) : (displayBuffer s).length = 6144 := by
  simp [displayBuffer, List.length_flatMap, rowBytes_length]

/-- The three bytes of a row's pixel are its pixel byte. -/
theorem getElem?_rowBytes (row : Vector Bool 64) (x : Fin 64) {c : Nat} (hc : c < 3) :
    (rowBytes row)[x.val * 3 + c]? = some (pixelByte row[x]) := by
  rw [rowBytes, getElem?_flatMap_blocks (n := 3) (fun _ => rfl) _ _ _ hc]
  have hx : row.toList[x.val]? = some row[x] := by simp
  rw [hx]
  match c, hc with
  | 0, _ | 1, _ | 2, _ => rfl

theorem getElem?_displayBuffer (s : State) (x : Fin 64) (y : Fin 32) {c : Nat} (hc : c < 3) :
    (displayBuffer s)[y.val * 192 + x.val * 3 + c]? = some (pixelByte (s.pix.get x y)) := by
  rw [displayBuffer, Nat.add_assoc, getElem?_flatMap_blocks rowBytes_length _ _ _ (by omega)]
  have hy : s.pix.toList[y.val]? = some s.pix[y] := by simp
  rw [hy]
  exact getElem?_rowBytes _ x hc

theorem getPixel_on_grid (s : State) (x : Fin 64) (y : Fin 32) : getPixel x.val y.val s
    = .ok (pixelByte (s.pix.get x y), pixelByte (s.pix.get x y), pixelByte (s.pix.get x y)) := by
  rw [getPixel, dif_pos ⟨x.isLt, y.isLt⟩]

/-- Settles O54: the buffer is 32 blocks of 64 blocks of 3 bytes. -/
theorem framebufferShowsThePixels : Obligations.FramebufferShowsThePixels := by
  unfold Obligations.FramebufferShowsThePixels
  refine fun s => ⟨displayBuffer_length s, fun x y c hc => getElem?_displayBuffer s x y hc, ?_, fun x y hxy => ⟨?_, rfl⟩⟩
  · rintro x y _ rfl
    exact getPixel_on_grid s x y
  · rw [getPixel, dif_neg (by omega)]

/-! ## The handlers -/

theorem betweenSteps_ready {s : State} (h : s.mode = .ready) (r : Except HostError State) : betweenSteps s r = r := by
  simp only [betweenSteps, h]

/-- A cycle that waits and has its answer stores it and completes. -/
theorem step_answered {s : State} {x : RegIdx} {b : Byte} {rest : List Byte} (hf : s.fault = none)
    (hm : s.mode = .awaitingKey x) (hk : s.keyHandler = some (b :: rest)) :
    step s = .next { s.beginCycle.setReg x b with mode := .ready, keyHandler := some rest }.endCycle := by
  rw [step, cycle_waiting hf hm]
  simp only [State.awaitKey, beginCycle_keyHandler, hk]

/-- Settles O58: the operations by their definitions, the answered wait by what its next step is. -/
theorem handlerOperationsWriteTheirHandlerOnly : Obligations.HandlerOperationsWriteTheirHandlerOnly := by
  unfold Obligations.HandlerOperationsWriteTheirHandlerOnly
  refine ⟨fun s hm => ⟨fun l => betweenSteps_ready hm _, betweenSteps_ready hm _⟩,
    fun s b => ⟨fun l hk => ?_, fun hk => ?_⟩, fun s x b hf _ hm hk => ?_⟩
  · simp only [answerKey, hk, Option.map_some]
  · simp only [answerKey, hk, Option.map_none]
    rw [← hk]
  · have hk' : (answerKey b s).keyHandler = some [b] := by simp [answerKey, hk]
    refine ⟨_, step_answered hf hm hk', ?_, fun k hne => ?_, ?_, ?_, ?_⟩
    · rw [reg_endCycle]
      exact reg_setReg_same _ _ _
    · rw [reg_endCycle]
      exact reg_setReg_ne _ _ (by simpa using hne)
    · rw [endCycle_mode]
    · rw [endCycle_keyHandler]
    · rw [endCycle_returned]
      rfl

end Sys2Proof.Machine
end

section
/-! PROOF. Memory: what a fetch reads (O6, O37), the canonical form (O38), the memory frame of Execute (O46) and
load_memory (O52). -/

namespace Sys2Proof.Machine

/-! ## The canonical form -/

namespace Memory

theorem wfFrom_cons {lo k : Nat} {b : Byte} {m : Memory} : wfFrom lo ((k, b) :: m) = true ↔
    lo ≤ k ∧ k < memSize ∧ b ≠ background k ∧ wfFrom (k + 1) m = true := by
  simp only [wfFrom, Bool.and_eq_true, decide_eq_true_eq, and_assoc]

/-- A canonical list that reads like another at the other's first cell cannot begin above that cell: the cell differs
from the reset contents. -/
theorem le_head_of_read_eq {lo lo' k : Nat} {b : Byte} {m m' : Memory} (h : wfFrom lo ((k, b) :: m) = true)
    (h' : wfFrom lo' m' = true) (hread : read k ((k, b) :: m) = read k m') : lo' ≤ k := by
  obtain ⟨-, -, hb, -⟩ := wfFrom_cons.1 h
  by_contra hlt
  rw [read_cons, if_pos rfl, read_of_lt h' (by omega)] at hread
  exact hb hread

/-- Extensionality of the canonical form, by comparing the lists cell by cell. -/
theorem eq_of_read_eq {lo : Nat} {m m' : Memory} (h : wfFrom lo m = true) (h' : wfFrom lo m' = true)
    (hread : ∀ a, a < memSize → read a m = read a m') : m = m' := by
  induction m generalizing lo m' with
  | nil =>
    cases m' with
    | nil => rfl
    | cons c' m' =>
      obtain ⟨k', b'⟩ := c'
      obtain ⟨-, hk', -, -⟩ := wfFrom_cons.1 h'
      have hle := le_head_of_read_eq (lo' := k' + 1) h' rfl (hread k' hk').symm
      omega
  | cons c m ih =>
    obtain ⟨k, b⟩ := c
    obtain ⟨-, hk, hb, hm⟩ := wfFrom_cons.1 h
    cases m' with
    | nil =>
      have hle := le_head_of_read_eq (lo' := k + 1) h rfl (hread k hk)
      omega
    | cons c' m' =>
      obtain ⟨k', b'⟩ := c'
      obtain ⟨-, hk', hb', hm'⟩ := wfFrom_cons.1 h'
      have hle : k' ≤ k := le_head_of_read_eq h (wfFrom_cons.2 ⟨le_rfl, hk', hb', hm'⟩) (hread k hk)
      have hge : k ≤ k' := le_head_of_read_eq h' (wfFrom_cons.2 ⟨le_rfl, hk, hb, hm⟩) (hread k' hk').symm
      obtain rfl : k = k' := by omega
      have hbyte : b = b' := by simpa using hread k hk
      have htail : m = m' := by
        refine ih hm hm' fun a ha => ?_
        by_cases hak : a ≤ k
        · rw [read_of_lt hm (by omega), read_of_lt hm' (by omega)]
        · simpa [show a ≠ k by omega] using hread a ha
      rw [hbyte, htail]

theorem read_write {a : Nat} (a' : Nat) (b : Byte) {m : Memory} (h : wf m = true) (ha : a < memSize) :
    read a' (write a b m) = if a' = a then b else read a' m := by
  split
  · subst a'
    exact read_write_same b h ha
  · exact read_write_ne b m ‹_›

end Memory

/-- Settles O38: extensionality, and the laws of a write. -/
theorem canonicalMemoriesAreEqualWhenTheyReadEqual : Obligations.CanonicalMemoriesAreEqualWhenTheyReadEqual := by
  unfold Obligations.CanonicalMemoriesAreEqualWhenTheyReadEqual
  exact ⟨fun m m' h h' => Memory.eq_of_read_eq h h',
    fun a a' b m h ha => ⟨Memory.wf_write a b h, Memory.read_write a' b h ha⟩⟩

/-! ## The fetch -/

/-- Settles O6: the bytes are packed high byte first. -/
theorem fetchReadsTheBigEndianWord : Obligations.FetchReadsTheBigEndianWord := by
  unfold Obligations.FetchReadsTheBigEndianWord
  exact fun s => toNat_wordOfBytes _ _

/-- The byte of V[k] after a bulk store in range (43_index_memory.md R205). -/
theorem readByte_of_ldivx {x : RegIdx} {s t : State} (hw : Memory.wf s.mem = true) (h : s.i.toNat + x.val ≤ 0xFFF)
    (he : exec (.ldivx x) s = .next t) (k : RegIdx) (hk : k.val ≤ x.val) :
    t.readByte (s.i.toNat + k.val) = s.reg k := by
  rw [exec, execLdivx_ok ((accessOk_bulk_iff s x).2 h)] at he
  injection he with he
  rw [← he, readByte_storeRegs_inside s _ _ hw (by omega) (by rw [memSize]; omega), regOfNat_val]

/-- Settles O37: both bytes of the word at I + k are bytes the store wrote. -/
theorem fetchSeesStoredBytes : Obligations.FetchSeesStoredBytes := by
  unfold Obligations.FetchSeesStoredBytes
  intro x k s t hw h hk he hpc
  have hhigh := readByte_of_ldivx hw h he k (by omega)
  have hlow := readByte_of_ldivx hw h he ⟨k.val + 1, by omega⟩ hk
  rw [fetchReadsTheBigEndianWord t, hpc, hhigh, Nat.add_assoc, hlow]

/-! ## The memory frame of Execute -/

theorem readByte_storeDigits_outside (s : State) (x : RegIdx) {a : Nat} (h : a < s.i.toNat ∨ s.i.toNat + 3 ≤ a) :
    (s.storeDigits x).readByte a = s.readByte a := by
  have hne : ∀ k < 3, a ≠ s.dataAddr k := fun k hk => by rw [State.dataAddr]; omega
  rw [State.storeDigits, readByte_writeByte_ne _ _ (hne 2 (by decide)), readByte_writeByte_ne _ _ (hne 1 (by decide)),
    readByte_writeByte_ne _ _ (hne 0 (by decide))]

/-- No effect writes a byte but those the instruction stores: only LDBVX and LDIVX write memory at all. -/
theorem Effect.sameMemoryOutside {ins : Instr} {s t : State} (he : Effect s ins t) :
    SameMemoryOutside (s.dataAddr 0) (storeLen ins) s t := by
  intro a ha
  cases he with
  | regs h => exact h.2.2 a
  | ldbvx x => exact readByte_storeDigits_outside s x ha
  | ldivx x => exact readByte_storeRegs_outside s _ a ha
  | skip => exact readByte_skipIf s _ a
  | ldvxk x => exact readByte_awaitKey s x a
  | _ => rfl

/-- Settles O46: a fault writes no memory, and the effect of an instruction without one writes the bytes it stores. -/
theorem onlyTheStoredBytesChange : Obligations.OnlyTheStoredBytesChange := by
  unfold Obligations.OnlyTheStoredBytesChange
  intro ins s t h
  obtain ⟨f, -, rfl⟩ | ⟨-, he⟩ := exec_cases h
  · exact fun a _ => readByte_enterFault s f a
  · exact he.sameMemoryOutside

/-! ## load_memory -/

theorem loadMemory_fits {bytes : List Byte} {s : State} (hm : s.mode = .ready) (hl : bytes.length ≤ maxRom) :
    loadMemory bytes s = .ok { s with mem := Memory.writeAll progBase bytes s.mem } := by
  rw [loadMemory, betweenSteps_ready hm, if_neg (Nat.not_lt.2 hl)]

theorem loadMemory_tooLarge {bytes : List Byte} {s : State} (hm : s.mode = .ready) (hl : bytes.length > maxRom) :
    loadMemory bytes s = .error (.romTooLarge bytes.length) := by
  rw [loadMemory, betweenSteps_ready hm, if_pos hl]

/-- Settles O52: the laws of a block write at 0x200, whose last byte is in memory when the program fits. -/
theorem loadMemoryCopiesTheProgram : Obligations.LoadMemoryCopiesTheProgram := by
  unfold Obligations.LoadMemoryCopiesTheProgram
  refine fun bytes s hm => ⟨fun hw hl => ?_, fun hl => ⟨loadMemory_tooLarge hm hl, rfl⟩⟩
  have hfits : progBase + bytes.length ≤ memSize := by
    rw [progBase, memSize]
    omega
  exact ⟨_, loadMemory_fits hm hl, rfl, fun k hk => Memory.read_writeAll_inside _ bytes hw k hk hfits,
    fun a ha => Memory.read_writeAll_outside _ bytes s.mem a ha⟩

end Sys2Proof.Machine
end

section
/-! PROOF. The encoding: every word that decodes is the word of its instruction (O2), a word decodes by the one row of
the opcode map it selects (O3), and the illegal words are those of R107 (O4). Where a proof splits the decoder's
dispatch, the case h_(t + 1) is the family of top nybble t, and h_17 is the arm after all sixteen. -/

namespace Sys2Proof.Machine

/-! ## A word is packed from its fields (30_encoding.md R101, R102) -/

section Packed
variable {op : Word} {t : BitVec 4}

theorem packNnn_of_fields (ht : fieldT op = t) : packNnn t (fieldNnn op) = op := by
  apply BitVec.eq_of_toNat_eq
  rw [toNat_packNnn, ← ht, toNat_fieldT, toNat_fieldNnn]
  omega

theorem packXkk_of_fields {kk : Byte} (ht : fieldT op = t) (hkk : fieldKk op = kk) :
    packXkk t (fieldX op) kk = op := by
  apply BitVec.eq_of_toNat_eq
  rw [toNat_packXkk, ← ht, ← hkk, toNat_fieldT, val_fieldX, toNat_fieldKk]
  omega

theorem packXyn_of_fields {n : BitVec 4} (ht : fieldT op = t) (hn : fieldN op = n) :
    packXyn t (fieldX op) (fieldY op) n = op := by
  apply BitVec.eq_of_toNat_eq
  rw [toNat_packXyn, ← ht, ← hn, toNat_fieldT, val_fieldX, val_fieldY, toNat_fieldN]
  omega
end Packed

/-! ## Encoding what was decoded

An instruction keeps the fields that its family does not fix, so packing them again gives the word. -/

section EncodeOfDecoded
variable {op : Word} {ins : Instr}

theorem encode_of_decodeFamily0 (h : decodeFamily0 op = .ok ins) : encode ins = op ∧ ins.wellFormed = true := by
  unfold decodeFamily0 at h
  split_ifs at h with hcls hret
  · cases h
    exact ⟨hcls.symm, rfl⟩
  · cases h
    exact ⟨hret.symm, rfl⟩

theorem encode_of_decodeFamily8 (ht : fieldT op = 0x8) (h : decodeFamily8 op = .ok ins) :
    encode ins = op ∧ ins.wellFormed = true := by
  unfold decodeFamily8 at h
  split at h <;> cases h <;> exact ⟨packXyn_of_fields ht ‹_›, rfl⟩

theorem encode_of_decodeFamilyE (ht : fieldT op = 0xE) (h : decodeFamilyE op = .ok ins) :
    encode ins = op ∧ ins.wellFormed = true := by
  unfold decodeFamilyE at h
  split at h <;> cases h <;> exact ⟨packXkk_of_fields ht ‹_›, rfl⟩

theorem encode_of_decodeFamilyF (ht : fieldT op = 0xF) (h : decodeFamilyF op = .ok ins) :
    encode ins = op ∧ ins.wellFormed = true := by
  unfold decodeFamilyF at h
  split at h <;> cases h <;> exact ⟨packXkk_of_fields ht ‹_›, rfl⟩

/-- The row count of DRW is a field, so it is below 16 and is packed back as it was. -/
theorem encode_drw_of_fields (ht : fieldT op = 0xD) :
    encode (.drw (fieldX op) (fieldY op) (fieldN op).toNat) = op ∧
      (Instr.drw (fieldX op) (fieldY op) (fieldN op).toNat).wellFormed = true := by
  constructor
  · rw [encode, BitVec.ofNat_toNat, BitVec.setWidth_eq, packXyn_of_fields ht rfl]
  · exact decide_eq_true (fieldN op).isLt

end EncodeOfDecoded

/-- Settles O2, by the families of 30_encoding.md R104: every field is fixed by the dispatch or kept as an operand. -/
theorem encodeOfDecodedWordGivesTheWord : Obligations.EncodeOfDecodedWordGivesTheWord := by
  unfold Obligations.EncodeOfDecodedWordGivesTheWord
  intro op ins h
  unfold decode at h
  split at h
  case h_1 => exact encode_of_decodeFamily0 h
  case h_6 ht | h_10 ht =>
    split_ifs at h with hn
    cases h
    exact ⟨packXyn_of_fields ht hn, rfl⟩
  case h_9 ht => exact encode_of_decodeFamily8 ht h
  case h_14 ht =>
    cases h
    exact encode_drw_of_fields ht
  case h_15 ht => exact encode_of_decodeFamilyE ht h
  case h_16 ht => exact encode_of_decodeFamilyF ht h
  case h_17 => cases h
  case h_2 ht | h_3 ht | h_11 ht | h_12 ht =>
    cases h
    exact ⟨packNnn_of_fields ht, rfl⟩
  all_goals
    cases h
    exact ⟨packXkk_of_fields ‹_› rfl, rfl⟩

/-! ## The illegal words (30_encoding.md R107) -/

section Illegal
variable (op : Word)

theorem decodeFamily0_error_iff :
    decodeFamily0 op = .error (.decodeError op) ↔ op.toNat ≠ 0x00E0 ∧ op.toNat ≠ 0x00EE := by
  unfold decodeFamily0
  split_ifs <;> simp_all [BitVec.toNat_eq]

theorem fieldN_eq_zero_iff : fieldN op = 0#4 ↔ op.toNat % 16 = 0 := by
  rw [← toNat_fieldN, BitVec.toNat_eq]
  rfl

theorem decodeFamily8_error_iff : decodeFamily8 op = .error (.decodeError op) ↔
    op.toNat % 16 ∈ [0x8, 0x9, 0xA, 0xB, 0xC, 0xD, 0xF] := by
  rw [← toNat_fieldN]
  unfold decodeFamily8
  split
  case h_10 =>
    generalize fieldN op = n at *
    simp only [true_iff]
    revert n
    decide
  all_goals simp [*]

theorem decodeFamilyE_error_iff : decodeFamilyE op = .error (.decodeError op) ↔ op.toNat % 256 ∉ [0x9E, 0xA1] := by
  rw [← toNat_fieldKk]
  unfold decodeFamilyE
  split <;> simp_all [BitVec.toNat_eq]

theorem decodeFamilyF_error_iff : decodeFamilyF op = .error (.decodeError op) ↔
    op.toNat % 256 ∉ [0x07, 0x0A, 0x15, 0x18, 0x1E, 0x29, 0x33, 0x55, 0x65] := by
  rw [← toNat_fieldKk]
  unfold decodeFamilyF
  split <;> simp_all [BitVec.toNat_eq]

end Illegal

/-- Settles O4: the top nybble picks the clause of the list, and the family's own lemma gives the rest of it. -/
theorem illegalWordsAreTheListedOnes : Obligations.IllegalWordsAreTheListedOnes := by
  unfold Obligations.IllegalWordsAreTheListedOnes
  intro op
  have ht := toNat_fieldT op
  unfold decode
  split
  case h_17 =>
    exfalso
    clear ht
    generalize fieldT op = t at *
    revert t
    decide
  all_goals
    rw [‹fieldT op = _›] at ht
    simp [← ht, decodeFamily0_error_iff, fieldN_eq_zero_iff, decodeFamily8_error_iff, decodeFamilyE_error_iff,
      decodeFamilyF_error_iff]

/-! ## The opcode map (30_encoding.md R105) -/

/-- Every instruction's word selects the row that bears the instruction's mnemonic. -/
theorem ownRow : ∀ ins : Instr, Laws.OwnRow.Statement ins
  | .cls => Laws.OwnRow.cls
  | .ret => Laws.OwnRow.ret
  | .jp nnn => Laws.OwnRow.jp nnn
  | .call nnn => Laws.OwnRow.call nnn
  | .sevxb x kk => Laws.OwnRow.sevxb x kk
  | .snevxb x kk => Laws.OwnRow.snevxb x kk
  | .sevxy x y => Laws.OwnRow.sevxy x y
  | .ldvxb x kk => Laws.OwnRow.ldvxb x kk
  | .addvxb x kk => Laws.OwnRow.addvxb x kk
  | .ldvxy x y => Laws.OwnRow.ldvxy x y
  | .or x y => Laws.OwnRow.or x y
  | .and x y => Laws.OwnRow.and x y
  | .xor x y => Laws.OwnRow.xor x y
  | .addvxy x y => Laws.OwnRow.addvxy x y
  | .subvxy x y => Laws.OwnRow.subvxy x y
  | .shr x y => Laws.OwnRow.shr x y
  | .subn x y => Laws.OwnRow.subn x y
  | .shl x y => Laws.OwnRow.shl x y
  | .snevxy x y => Laws.OwnRow.snevxy x y
  | .ldi nnn => Laws.OwnRow.ldi nnn
  | .jr nnn => Laws.OwnRow.jr nnn
  | .rnd x kk => Laws.OwnRow.rnd x kk
  | .drw x y n => Laws.OwnRow.drw x y n
  | .skp x => Laws.OwnRow.skp x
  | .sknp x => Laws.OwnRow.sknp x
  | .ldvxdt x => Laws.OwnRow.ldvxdt x
  | .ldvxk x => Laws.OwnRow.ldvxk x
  | .lddtvx x => Laws.OwnRow.lddtvx x
  | .ldstvx x => Laws.OwnRow.ldstvx x
  | .addivx x => Laws.OwnRow.addivx x
  | .ldfvx x => Laws.OwnRow.ldfvx x
  | .ldbvx x => Laws.OwnRow.ldbvx x
  | .ldivx x => Laws.OwnRow.ldivx x
  | .ldvxi x => Laws.OwnRow.ldvxi x

/-- A word that decodes selects a row: the row of its instruction. -/
theorem exists_row_of_decode_ok {op : Word} {ins : Instr} (h : decode op = .ok ins) :
    ∃ r ∈ opcodeTable, op &&& r.mask = r.bits := by
  obtain ⟨r, hrow, hbits⟩ := ownRow ins
  rw [(encodeOfDecodedWordGivesTheWord op ins h).1] at hbits
  exact ⟨r, List.mem_of_find?_eq_some hrow, hbits⟩

/-- Two rows whose fixed bits agree under both masks are one row. -/
theorem opcodeTable_disjoint : ∀ r ∈ opcodeTable, ∀ r' ∈ opcodeTable,
    r.bits &&& r'.mask = r'.bits &&& r.mask → r = r' := by
  decide

/-! ### The fields the decoder dispatches on -/

/-- The two words agree in every field that the decoder looks at to choose the instruction (30_encoding.md R104). -/
structure SameDispatch (op b : Word) : Prop where
  family : fieldT op = fieldT b
  whole : fieldT b = 0x0 → op = b
  lowNybble : fieldT b ∈ [0x5, 0x8, 0x9] → fieldN op = fieldN b
  lowByte : fieldT b ∈ [0xE, 0xF] → fieldKk op = fieldKk b

/-- The mnemonic of what the decoder answers. -/
def mnemonicOf (d : Except DecodeReject Instr) : Option String := d.toOption.map Instr.mnemonic

theorem mnemonicOf_eq_some_iff {d : Except DecodeReject Instr} {m : String} :
    mnemonicOf d = some m ↔ ∃ ins, d = .ok ins ∧ ins.mnemonic = m := by
  cases d <;> simp [mnemonicOf, Except.toOption]

section Congruence
variable {op b : Word}

theorem mnemonicOf_decodeFamily8_congr (h : fieldN op = fieldN b) :
    mnemonicOf (decodeFamily8 op) = mnemonicOf (decodeFamily8 b) := by
  unfold decodeFamily8
  rw [h]
  split <;> rfl

theorem mnemonicOf_decodeFamilyE_congr (h : fieldKk op = fieldKk b) :
    mnemonicOf (decodeFamilyE op) = mnemonicOf (decodeFamilyE b) := by
  unfold decodeFamilyE
  rw [h]
  split <;> rfl

theorem mnemonicOf_decodeFamilyF_congr (h : fieldKk op = fieldKk b) :
    mnemonicOf (decodeFamilyF op) = mnemonicOf (decodeFamilyF b) := by
  unfold decodeFamilyF
  rw [h]
  split <;> rfl

/-- Which instruction the decoder answers depends on the fields it dispatches on and on no operand. -/
theorem mnemonicOf_decode_congr (h : SameDispatch op b) : mnemonicOf (decode op) = mnemonicOf (decode b) := by
  obtain ⟨hfamily, hwhole, hnybble, hbyte⟩ := h
  unfold decode
  rw [hfamily]
  split
  case h_1 ht => rw [hwhole ht]
  case h_6 ht | h_10 ht =>
    rw [hnybble (by simp [ht])]
    split <;> rfl
  case h_9 ht => exact mnemonicOf_decodeFamily8_congr (hnybble (by simp [ht]))
  case h_15 ht => exact mnemonicOf_decodeFamilyE_congr (hbyte (by simp [ht]))
  case h_16 ht => exact mnemonicOf_decodeFamilyF_congr (hbyte (by simp [ht]))
  all_goals rfl
end Congruence

/-- The mask of a row covers the fields the decoder dispatches on in the row's family. -/
theorem opcodeTable_mask_covers : ∀ r ∈ opcodeTable, fieldT r.mask = 0xF ∧ (fieldT r.bits = 0x0 → r.mask = 0xFFFF) ∧
    (fieldT r.bits ∈ [0x5, 0x8, 0x9] → fieldN r.mask = 0xF) ∧
    (fieldT r.bits ∈ [0xE, 0xF] → fieldKk r.mask = 0xFF) := by
  decide

section Masked
variable {op m : Word}

theorem fieldT_and_of_mask (h : fieldT m = 0xF) : fieldT (op &&& m) = fieldT op :=
  BitVec.extractLsb'_and.trans ((congrArg (fieldT op &&& ·) h).trans BitVec.and_allOnes)

theorem fieldN_and_of_mask (h : fieldN m = 0xF) : fieldN (op &&& m) = fieldN op :=
  BitVec.extractLsb'_and.trans ((congrArg (fieldN op &&& ·) h).trans BitVec.and_allOnes)

theorem fieldKk_and_of_mask (h : fieldKk m = 0xFF) : fieldKk (op &&& m) = fieldKk op :=
  BitVec.extractLsb'_and.trans ((congrArg (fieldKk op &&& ·) h).trans BitVec.and_allOnes)
end Masked

/-- A word agrees with the fixed bits of a row it selects in every field the mask covers. -/
theorem sameDispatch_bits {op : Word} {r : Row} (hr : r ∈ opcodeTable) (h : op &&& r.mask = r.bits) :
    SameDispatch op r.bits := by
  obtain ⟨hfamily, hwhole, hnybble, hbyte⟩ := opcodeTable_mask_covers r hr
  rw [← h] at hwhole hnybble hbyte ⊢
  refine ⟨(fieldT_and_of_mask hfamily).symm, fun ht => ?_, fun ht => (fieldN_and_of_mask (hnybble ht)).symm,
    fun ht => (fieldKk_and_of_mask (hbyte ht)).symm⟩
  rw [hwhole ht]
  exact BitVec.and_allOnes.symm

/-- The fixed bits of a row, as a word, decode to the row's instruction. -/
theorem mnemonicOf_decode_bits : ∀ r ∈ opcodeTable, mnemonicOf (decode r.bits) = some r.mnemonic := by
  decide

/-- Settles O3: the rows are pairwise disjoint; a word decodes to the mnemonic its row's bits decode to; and a word
that decodes selects the row of its instruction, so a word that selects none is an error. -/
theorem wordDecodesByTheOneRowItSelects : Obligations.WordDecodesByTheOneRowItSelects := by
  unfold Obligations.WordDecodesByTheOneRowItSelects
  refine ⟨fun op r r' hr hr' h h' => ?_, fun op r hr h => ?_, fun op hnone => ?_⟩
  · refine opcodeTable_disjoint r hr r' hr' ?_
    rw [← h, ← h', BitVec.and_assoc, BitVec.and_assoc, BitVec.and_comm r.mask]
  · rw [← mnemonicOf_eq_some_iff, mnemonicOf_decode_congr (sameDispatch_bits hr h), mnemonicOf_decode_bits r hr]
  · cases hd : decode op with
    | error e => rw [decode_error hd]
    | ok ins =>
      obtain ⟨r, hr, h⟩ := exists_row_of_decode_ok hd
      exact absurd h (hnone r hr)

end Sys2Proof.Machine
end

section
/-! PROOF. The cycle: what one step is in each of its cases (O7, O15), the timer advance (O8), the wait for a key (O16),
step calls (O55), an illegal word (O9) and a placed word (O57). -/

namespace Sys2Proof.Machine

variable {s t : State}

/-! ## A step in each of its cases (40_cycle.md R130) -/

theorem step_faulted {f : Fault} (h : s.fault = some f) : step s = .fault f := cycle_faulted h

theorem step_run {ins : Instr} (hf : s.fault = none) (hm : s.mode = .ready) (hpc : s.pc.toNat ≤ 0xFFE)
    (hd : decode s.fetchWord = .ok ins) : step s = endOf (exec ins s.beginCycle.fetched) := by
  rw [step, cycle_fetches hf hm (fetchOk_iff.2 hpc), runWord_ok hd]

theorem step_illegal (hf : s.fault = none) (hm : s.mode = .ready) (hpc : s.pc.toNat ≤ 0xFFE)
    (hd : ∀ ins, decode s.fetchWord ≠ .ok ins) :
    step s = .next { s with pc := s.pc + 2, returned := some (.decodeError s.fetchWord) } := by
  cases h : decode s.fetchWord with
  | ok ins => exact absurd h (hd ins)
  | error e =>
    rw [step, cycle_fetches hf hm (fetchOk_iff.2 hpc), runWord_illegal h]
    rfl

/-- Settles O7. -/
theorem stepRunsTheDecodedInstruction : Obligations.StepRunsTheDecodedInstruction := by
  unfold Obligations.StepRunsTheDecodedInstruction
  exact fun _ _ => step_run

/-! ## Every Execute and every step answers (40_cycle.md R139) -/

theorem exec_next (ins : Instr) (s : State) : ∃ t, exec ins s = .next t := by
  obtain ⟨f, -, he⟩ | ⟨-, t, -, he⟩ := executed_exec ins s
  · exact ⟨_, he⟩
  · exact ⟨t, he⟩

/-- With no terminal fault a step answers a next state: a wait goes on, the fetch or the decoder raises its fault, or
Execute answers. -/
theorem step_next (hf : s.fault = none) : ∃ t, step s = .next t := by
  cases hm : s.mode with
  | awaitingKey x => exact ⟨_, cycle_waiting hf hm⟩
  | ready =>
    cases hp : s.fetchOk with
    | false => exact ⟨_, cycle_outOfRange hf hm hp⟩
    | true =>
      have hpc := fetchOk_iff.1 hp
      cases hd : decode s.fetchWord with
      | error e => exact ⟨_, step_illegal hf hm hpc (by simp [hd])⟩
      | ok ins =>
        obtain ⟨t, ht⟩ := exec_next ins s.beginCycle.fetched
        exact ⟨t.endCycle, by rw [step_run hf hm hpc hd, ht, endOf_next]⟩

/-- Whether `Fault` is set decides the outcome of a step. -/
theorem step_fault_or_next (s : State) :
    (∃ f, s.fault = some f ∧ step s = .fault f) ∨ s.fault = none ∧ ∃ t, step s = .next t := by
  cases hf : s.fault with
  | some f => exact .inl ⟨f, rfl, step_faulted hf⟩
  | none => exact .inr ⟨rfl, step_next hf⟩

/-- Settles O15: an outcome that a step does not have is another constructor than the one it has. -/
theorem nothingIsRefused : Obligations.NothingIsRefused := by
  unfold Obligations.NothingIsRefused
  refine ⟨exec_next, fun s => step_next, fun s f => ⟨fun h => ?_, step_faulted⟩, fun s r h => ?_⟩
  · obtain ⟨g, hg, e⟩ | ⟨-, t, e⟩ := step_fault_or_next s
    · injection e.symm.trans h with hgf
      rw [hg, hgf]
    · cases e.symm.trans h
  · obtain ⟨g, -, e⟩ | ⟨-, t, e⟩ := step_fault_or_next s <;> cases e.symm.trans h

/-! ## The end of a cycle (40_cycle.md R135) -/

/-- The end of a completed cycle: the timers advance once, and the tick's own records move. -/
theorem endCycle_advances (hm : t.mode = .ready) (hr : t.returned = none) :
    t.endCycle.dt.toNat = (if Config.tick t.tickDraws then t.dt.toNat - 1 else t.dt.toNat) ∧
    t.endCycle.st.toNat = (if Config.tick t.tickDraws then t.st.toNat - 1 else t.st.toNat) ∧
    (Config.tick t.tickDraws = false → t.endCycle.lastTick = t.lastTick) ∧
    t.endCycle = { t with dt := t.endCycle.dt, st := t.endCycle.st, lastTick := t.endCycle.lastTick,
                          tickDraws := t.tickDraws + 1 } := by
  rw [endCycle_completed hm hr]
  exact ⟨toNat_tickTimer _ _, toNat_tickTimer _ _, fun h => by simp [h], rfl⟩

/-- A cycle that has not completed ends with nothing done. -/
theorem endCycle_of_not_completed (h : t.mode ≠ .ready ∨ t.returned ≠ none) : t.endCycle = t := by
  rw [State.endCycle, if_neg]
  simpa [State.completed, imp_iff_not_or] using h

/-- A step that returns an error has not touched the timers: no effect of an instruction raises one, so it is the entry
of a fault. -/
theorem step_raised_timers (h : step s = .next t) (hr : t.returned ≠ none) : t.dt = s.dt ∧ t.st = s.st := by
  obtain ⟨-, ⟨x, -, rfl⟩ | ⟨-, -, rfl⟩ | ⟨-, -, -, rfl⟩ | ⟨-, -, ins, -, he⟩⟩ := step_cases h
  · simp at hr
  · exact ⟨rfl, rfl⟩
  · exact ⟨rfl, rfl⟩
  · obtain ⟨u, hu, rfl⟩ := endOf_eq_next he
    rw [endCycle_returned] at hr
    obtain ⟨f, -, rfl⟩ | ⟨-, heff⟩ := exec_cases hu
    · rw [endCycle_raised (enterFault_returned _ f)]
      exact ⟨rfl, rfl⟩
    · exact absurd heff.fault_returned.2 hr

/-- Settles O8. -/
theorem timersAdvanceAtTheEndOfACompletedCycle : Obligations.TimersAdvanceAtTheEndOfACompletedCycle := by
  unfold Obligations.TimersAdvanceAtTheEndOfACompletedCycle
  refine ⟨fun s t ins hf hm hpc hd he => ?_, fun s x hf hm => ⟨_, cycle_waiting hf hm, fun hu => ?_, fun hu => ?_⟩,
    fun s t => step_raised_timers⟩
  · have hstep : step s = .next t.endCycle := (step_run hf hm hpc hd).trans (congrArg endOf he)
    exact ⟨fun hm' hr => ⟨_, hstep, endCycle_advances hm' hr⟩,
      fun h => by rw [hstep, endCycle_of_not_completed h]⟩
  · rw [endCycle_mode] at hu
    obtain ⟨hdt, hst, -, -⟩ := endCycle_advances hu (awaitKey_returned _ x)
    simp only [awaitKey_dt, awaitKey_st, awaitKey_tickDraws] at hdt hst
    exact ⟨hdt, hst⟩
  · rw [endCycle_mode] at hu
    rw [endCycle_of_not_completed (.inl hu)]
    exact ⟨awaitKey_dt _ x, awaitKey_st _ x⟩

/-! ## The wait for a key (40_cycle.md R134) -/

theorem beginCycle_of_returned_none (h : s.returned = none) : s.beginCycle = s := by
  rw [State.beginCycle, ← h]

/-- A cycle that waits and has no answer stays as it is. -/
theorem step_unanswered {x : RegIdx} (hf : s.fault = none) (hr : s.returned = none) (hm : s.mode = .awaitingKey x)
    (hk : s.keyHandler = none ∨ s.keyHandler = some []) : step s = .next s := by
  have hwait : s.awaitKey x = s := by
    obtain ⟨-, e⟩ | ⟨b, rest, e, -⟩ := awaitKey_cases s x
    · rw [e, ← hm]
    · simp [e] at hk
  rw [step, cycle_waiting hf hm, beginCycle_of_returned_none hr, hwait, endCycle_waiting hm]

theorem betweenSteps_waiting {x : RegIdx} (h : s.mode = .awaitingKey x) (r : Except HostError State) :
    betweenSteps s r = .error .stepInProgress := by
  simp only [betweenSteps, h]

/-- Settles O16. -/
theorem waitForKeySuspendsTheCycle : Obligations.WaitForKeySuspendsTheCycle := by
  unfold Obligations.WaitForKeySuspendsTheCycle
  refine fun s x hf hr hm => ⟨step_unanswered hf hr hm, fun b rest hk => ?_, fun _ => betweenSteps_waiting hm _,
    fun _ _ => betweenSteps_waiting hm _, fun _ => betweenSteps_waiting hm _, betweenSteps_waiting hm _⟩
  have hstep := step_answered hf hm hk
  rw [beginCycle_of_returned_none hr] at hstep
  obtain ⟨hdt, hst, -, heq⟩ :=
    endCycle_advances (t := { s.setReg x b with mode := .ready, keyHandler := some rest }) rfl hr
  refine ⟨_, hstep, ?_, fun k hne => ?_, hdt, hst, heq.trans ?_⟩
  · rw [reg_endCycle]
    exact reg_setReg_same s x b
  · rw [reg_endCycle]
    exact reg_setReg_ne s b (by simpa using hne)
  · rw [endCycle_v]
    rfl

/-! ## Step calls (40_cycle.md R136) -/

/-- What a call comes to whose first part came to `r`, with `n` more cycles to run by `rest`. -/
def StepReply.andThen (n : Nat) (rest : State → StepReply) : StepReply → StepReply
  | .ok s => rest s
  | .err f s => .err f s
  | .waiting left s => .waiting (left + n) s
  | .refused r => .refused r

/-- A call of m + n cycles is one of m and then, if that returns Ok, one of n. -/
theorem runCycles_add (f : State → Result) (m n : Nat) (s : State) :
    runCycles f (m + n) s = (runCycles f m s).andThen n (runCycles f n) := by
  induction m generalizing s with
  | zero => rw [Nat.zero_add, runCycles_zero, StepReply.andThen]
  | succ m ih =>
    rw [Nat.add_right_comm]
    cases h : f s with
    | next t =>
      rw [runCycles_next _ h, runCycles_next _ h]
      cases t.outcome with
      | ok => exact ih t
      | err e => rfl
      | suspended => simp only [StepReply.andThen, Nat.add_right_comm]
    | fault e => rw [runCycles_fault _ h, runCycles_fault _ h, StepReply.andThen]
    | refused r => simp only [runCycles, h, StepReply.andThen]

theorem hostStep_completed (n : Nat) (h : step s = .next t) (hm : t.mode = .ready) (hr : t.returned = none) :
    hostStep (n + 1) s = hostStep n t := by
  rw [hostStep, runCycles_next n h, outcome_ok hm hr, hostStep]

theorem hostStep_raised {f : Fault} (n : Nat) (h : step s = .next t) (hm : t.mode = .ready)
    (hr : t.returned = some f) : hostStep (n + 1) s = .err f t := by
  rw [hostStep, runCycles_next n h, outcome_err hm hr]

theorem hostStep_waits {x : RegIdx} (n : Nat) (h : step s = .next t) (hm : t.mode = .awaitingKey x) :
    hostStep (n + 1) s = .waiting (n + 1) t := by
  rw [hostStep, runCycles_next n h, outcome_suspended hm]

/-- Settles O55: the composition by `runCycles_add`, the first cycle by its outcome. -/
theorem stepCallsCompose : Obligations.StepCallsCompose := by
  unfold Obligations.StepCallsCompose
  refine ⟨fun s => rfl, fun m n s t h => ?_, fun m n s f t h => ?_, fun m n left s t h => ?_,
    fun n s t => hostStep_completed n, fun n s t f => hostStep_raised n, fun n s t x => hostStep_waits n,
    fun n s f => runCycles_fault n⟩ <;>
  · rw [hostStep] at h
    rw [hostStep, runCycles_add, h]
    rfl

/-! ## An illegal word (40_cycle.md R138) -/

/-- Settles O9: the step is the entry of DecodeError, which leaves the core ready and with no terminal fault, so that the
next step is the ordinary one at the next word. -/
theorem illegalWordReturnsDecodeError : Obligations.IllegalWordReturnsDecodeError := by
  unfold Obligations.IllegalWordReturnsDecodeError
  intro s hf hm hpc hd
  have hstep := step_illegal hf hm hpc hd
  have hnext : s.pc + 4 = s.pc + 2 + 2 := (BitVec.add_assoc s.pc 2 2).symm
  refine ⟨_, hstep, rfl, fun n => hostStep_raised n hstep hm rfl, fun ins hpc' hd' => ?_⟩
  rw [hnext]
  exact step_run hf hm hpc' hd'

/-! ## A placed word -/

theorem fetchPlace_le (s : State) : s.fetchPlace.toNat ≤ 0xFFE := by
  unfold State.fetchPlace
  split
  · exact fetchOk_iff.1 ‹_›
  · decide

/-- The next fetch reads the placed word: both of its bytes are bytes the block write put at PC and PC + 1. -/
theorem fetchWord_withFetchWord (nbits w : Nat) (h : Memory.wf s.mem = true) :
    (s.withFetchWord nbits w).fetchWord = BitVec.ofNat 16 (w % 2 ^ nbits) := by
  have hplace := fetchPlace_le s
  have hread := Memory.read_writeAll_inside s.fetchPlace.toNat
    [highByte (BitVec.ofNat 16 (w % 2 ^ nbits)), lowByte (BitVec.ofNat 16 (w % 2 ^ nbits))] h
  have hfits : s.fetchPlace.toNat + 2 ≤ memSize := by
    rw [memSize]
    omega
  have hhigh := hread 0 Nat.zero_lt_two hfits
  have hlow := hread 1 Nat.one_lt_two hfits
  rw [← wordOfBytes_highByte_lowByte (BitVec.ofNat 16 (w % 2 ^ nbits))]
  exact congrArg₂ wordOfBytes hhigh hlow

theorem decode_of_decodeTableWord {nbits w : Nat} {ins : Instr} (h : decodeTableWord nbits w = some ins) :
    decode (BitVec.ofNat 16 (w % 2 ^ nbits)) = .ok ins := by
  simp only [decodeTableWord, decodeBytes, wordOfBytes_highByte_lowByte] at h
  cases hd : decode (BitVec.ofNat 16 (w % 2 ^ nbits)) with
  | ok i => simpa [hd] using h
  | error e => simp [hd] at h

/-- Settles O57. -/
theorem placedWordIsTheOneTheStepRuns : Obligations.PlacedWordIsTheOneTheStepRuns := by
  unfold Obligations.PlacedWordIsTheOneTheStepRuns
  intro s w hw
  have hword := fetchWord_withFetchWord 16 w hw
  refine ⟨?_, fun ins hd => ?_⟩
  · rw [hword, BitVec.toNat_ofNat]
    exact Nat.mod_mod w 65536
  · exact step_run rfl rfl (fetchPlace_le s) (hword ▸ decode_of_decodeTableWord hd)

end Sys2Proof.Machine
end

section
/-! PROOF. Control transfer (41_flow.md): the skips (O21, O22), the jumps (O17), CALL and RET (O18, O19, O20). -/

namespace Sys2Proof.Machine

variable {s : State}

/-! ## Skips (R150, R154 to R157) -/

/-- A key skip whose index is in range has a keypad entry to read. -/
theorem skipOnKey_of_getElem? {x : RegIdx} {k : Bool} (down : Bool) (h : s.keys[(s.reg x).toNat]? = some k) :
    skipOnKey down x s = .next (s.skipIf (k == down)) := by
  obtain ⟨hlt, rfl⟩ := Vector.getElem?_eq_some_iff.1 h
  exact skipOnKey_ok down hlt

/-- A skip whose condition is `c` does no more than the move of PC that `c` decides. -/
theorem exec_skip {ins : Instr} {c : Bool} (h : skipCondition ins s = some c) : exec ins s = .next (s.skipIf c) := by
  obtain ⟨x, kk, rfl⟩ | ⟨x, kk, rfl⟩ | ⟨x, y, rfl⟩ | ⟨x, y, rfl⟩ | ⟨x, rfl⟩ | ⟨x, rfl⟩ := isSkip_of_skipCondition h
  · cases h
    rfl
  · cases h
    rw [decide_not]
    rfl
  · cases h
    rfl
  · cases h
    rw [decide_not]
    rfl
  · exact (skipOnKey_of_getElem? true h).trans (by rw [beq_true])
  · obtain ⟨k, hk, rfl⟩ := Option.map_eq_some_iff.1 h
    exact (skipOnKey_of_getElem? false hk).trans (by rw [beq_false])

/-- The fetch touches nothing that a skip condition reads. -/
theorem skipCondition_fetched (ins : Instr) (s : State) :
    skipCondition ins s.beginCycle.fetched = skipCondition ins s := by
  cases ins <;> rfl

/-- A skip's target, with its condition as a proposition. -/
theorem skipIf_decide (s : State) (p : Prop) [Decidable p] :
    s.skipIf (decide p) = { s with pc := if p then s.pc + 2 else s.pc } := by
  rw [skipIf_eq]
  simp only [decide_eq_true_eq]

/-- From a PC that a fetch accepts, the fetch and a skip move PC by 4 or by 2, with no wrap. -/
theorem toNat_pc_skipIf_fetched (c : Bool) (hpc : s.pc.toNat ≤ 0xFFE) :
    (s.beginCycle.fetched.skipIf c).pc.toNat = s.pc.toNat + (if c then 4 else 2) := by
  have hfetch := toNat_pc_add_two s.pc (by omega)
  rw [skipIf_eq, fetched_pc, beginCycle_pc]
  cases c with
  | true => exact (toNat_pc_add_two _ (by omega)).trans (by rw [hfetch]; rfl)
  | false => exact hfetch

/-- Settles O22: the step is the fetch, the skip and the end of the cycle, which leaves PC alone. -/
theorem skipStepMovesPcByFourOrTwo : Obligations.SkipStepMovesPcByFourOrTwo := by
  unfold Obligations.SkipStepMovesPcByFourOrTwo
  intro s ins c hf hm hpc hd hc
  have hstep : step s = .next (s.beginCycle.fetched.skipIf c).endCycle := by
    rw [step_run hf hm hpc hd, exec_skip ((skipCondition_fetched ins s).trans hc), endOf_next]
  refine ⟨_, hstep, ?_, ?_⟩
  · rw [endCycle_pc, toNat_pc_skipIf_fetched c hpc]
  · rw [endCycle_returned, skipIf_returned]
    rfl

/-- Settles O21: the words are packed fields, and each Execute is `exec_skip` at the condition of its rule. -/
theorem skipsTestTheirCondition : Obligations.SkipsTestTheirCondition := by
  unfold Obligations.SkipsTestTheirCondition
  intro x y kk s
  simp only [BitVec.toNat_inj]
  refine ⟨⟨toNat_packXkk 0x3 x kk, toNat_packXkk 0x4 x kk, toNat_packXyn 0x5 x y 0, toNat_packXyn 0x9 x y 0⟩,
    ?_, ?_, ?_, ?_⟩
  · rw [exec_skip (ins := .sevxb x kk) rfl, skipIf_decide]
  · rw [exec_skip (ins := .snevxb x kk) rfl, skipIf_decide, ite_not]
  · rw [exec_skip (ins := .sevxy x y) rfl, skipIf_decide]
  · rw [exec_skip (ins := .snevxy x y) rfl, skipIf_decide, ite_not]

/-! ## Targets (R152, R153, R158) -/

theorem toNat_landing_two {p : Params} (hp : p.jumpLandingOffset = .two) (nnn : BitVec 12) :
    (landing p nnn).toNat = nnn.toNat + 2 := by
  have hnnn := toNat_zextNnn nnn
  rw [landing, hp, ← hnnn]
  exact toNat_pc_add_two _ (by omega)

/-- The sum of JR stays far below 2^16, so it is exact. -/
theorem toNat_zextNnn_add_zextByte (nnn : BitVec 12) (b : Byte) :
    (zextNnn nnn + zextByte b).toNat = nnn.toNat + b.toNat := by
  have := nnn.isLt
  have := b.isLt
  rw [BitVec.toNat_add, toNat_zextNnn, toNat_zextByte]
  omega

/-- Settles O17: a jump writes PC only, so its frame is the record update itself. -/
theorem jumpsGoToTheirTargets : Obligations.JumpsGoToTheirTargets := by
  unfold Obligations.JumpsGoToTheirTargets
  intro nnn s
  refine ⟨toNat_packNnn 0x1 nnn, toNat_packNnn 0xB nnn, ?jp, fun p hp => ?jpLanding, ?jr⟩
  case jp => exact ⟨_, execJp_eq nnn s, toNat_zextNnn nnn, rfl, fun _ => rfl⟩
  case jpLanding => exact ⟨_, rfl, toNat_landing_two hp nnn, rfl⟩
  case jr => exact ⟨_, rfl, toNat_zextNnn_add_zextByte nnn (s.reg 0), rfl, fun _ => rfl⟩

/-! ## CALL and RET (R151, R153) -/

theorem callWith_push (p : Params) (nnn : BitVec 12) (h : s.sp.val < 16) :
    callWith p nnn s = .next { s.pushReturn h with pc := landing p nnn } := by
  rw [callWith, dif_pos h]

theorem getElem_stack_pushReturn_same (h : s.sp.val < 16) : (s.pushReturn h).stack[s.sp.val] = s.pc :=
  Vector.getElem_set_self h

theorem getElem_stack_pushReturn_ne (h : s.sp.val < 16) {k : Fin 16} (hk : k.val ≠ s.sp.val) :
    (s.pushReturn h).stack[k] = s.stack[k] :=
  Vector.getElem_set_ne h k.isLt hk.symm

/-- Settles O18: below 16 a push and a landing, at 16 the entry of StackOverflow. -/
theorem callPushesTheReturnAddress : Obligations.CallPushesTheReturnAddress := by
  unfold Obligations.CallPushesTheReturnAddress
  intro nnn s
  refine ⟨toNat_packNnn 0x2 nnn, fun h => ?push, fun p hp h => ?pushLanding, fun h => ?overflow⟩
  case push =>
    exact ⟨_, execCall_push nnn h, getElem_stack_pushReturn_same h, fun _ => getElem_stack_pushReturn_ne h, rfl,
      toNat_zextNnn nnn, rfl, fun _ => rfl⟩
  case pushLanding =>
    exact ⟨_, callWith_push p nnn h, getElem_stack_pushReturn_same h, toNat_landing_two hp nnn⟩
  case overflow => exact execCall_overflow nnn h

/-- Settles O19: above 0 a pop, at 0 the entry of StackUnderflow. -/
theorem retPopsTheReturnAddress : Obligations.RetPopsTheReturnAddress := by
  unfold Obligations.RetPopsTheReturnAddress
  exact fun s => ⟨rfl, fun h => ⟨_, execRet_pop h, Nat.sub_add_cancel h, rfl, rfl, fun _ => rfl⟩, execRet_underflow⟩

/-- A pop from the stack and SP that a push left: the pushed PC and the SP before it. -/
theorem popReturn_of_pushed {u : State} (h : s.sp.val < 16) (hst : u.stack = (s.pushReturn h).stack)
    (hsp : u.sp = (s.pushReturn h).sp) (hpos : 0 < u.sp.val) :
    (u.popReturn hpos).pc = s.pc ∧ (u.popReturn hpos).sp = s.sp := by
  have hval : u.sp.val - 1 = s.sp.val := by rw [hsp]; rfl
  refine ⟨?_, Fin.ext hval⟩
  simp only [popReturn_pc, hst, hval]
  exact getElem_stack_pushReturn_same h

/-- Settles O20: a CALL with a free slot is a push, and RET pops what it pushed. -/
theorem retAfterCallComesBack : Obligations.RetAfterCallComesBack := by
  unfold Obligations.RetAfterCallComesBack
  intro nnn s t u h hcall hst hsp
  obtain rfl : t = { s.pushReturn h with pc := zextNnn nnn } := by
    injection hcall.symm.trans (execCall_push nnn h)
  have hpos : 0 < u.sp.val := hsp ▸ Nat.succ_pos s.sp.val
  obtain ⟨hpc, hback⟩ := popReturn_of_pushed h hst hsp hpos
  exact ⟨_, execRet_pop hpos, hpc, hback, hst⟩

end Sys2Proof.Machine
end

section
/-! PROOF. Loads and ALU (42_alu.md): the plain register writes (O24, O25, O29), and the instructions that write a flag
before their result (O26, O27, O28). -/

namespace Sys2Proof.Machine

/-! ## The words of family 8 -/

/-- Family 8 packs x and y into the middle of 0x800n (30_encoding.md R102). -/
theorem encodedAs_family8 {ins : Instr} {x y : RegIdx} (n : BitVec 4) (h : encode ins = packXyn 0x8 x y n) :
    EncodedAs ins (0x8000 + n.toNat + x.val * 256 + y.val * 16) := by
  have ht : (0x8 : BitVec 4).toNat = 8 := rfl
  rw [EncodedAs, h, toNat_packXyn, ht]
  omega

/-! ## Plain register writes (R173 to R178, R184) -/

/-- Settles O24: each of the three is one write of V[x]. -/
theorem loadsAndAddImmediate : Obligations.LoadsAndAddImmediate := by
  unfold Obligations.LoadsAndAddImmediate
  intro x y kk s
  refine ⟨⟨toNat_packXkk 0x6 x kk, toNat_packXkk 0x7 x kk, encodedAs_family8 0x0 rfl⟩, ?ldvxb, ?addvxb, ?ldvxy⟩
  case ldvxb => exact ⟨_, rfl, reg_setReg_same s x kk, changesOnlyRegs_setReg s x kk⟩
  case addvxb =>
    refine ⟨_, rfl, ?_, changesOnlyRegs_setReg s x (s.reg x + kk)⟩
    rw [reg_setReg_same, BitVec.toNat_add]
  case ldvxy => exact ⟨_, rfl, reg_setReg_same s x (s.reg y), changesOnlyRegs_setReg s x (s.reg y)⟩

/-- Settles O25: each of the three writes V[x] the bitwise operation of the two operands, which acts bit by bit. -/
theorem logicOperationsAreBitwise : Obligations.LogicOperationsAreBitwise := by
  unfold Obligations.LogicOperationsAreBitwise
  intro x y s
  refine ⟨⟨encodedAs_family8 0x1 rfl, encodedAs_family8 0x2 rfl, encodedAs_family8 0x3 rfl⟩, ?or, ?and, ?xor⟩
  case or =>
    refine ⟨_, execOr_eq x y s, changesOnlyRegs_setReg s x _, fun k => ?_⟩
    rw [reg_setReg_same, BitVec.getLsbD_or]
  case and =>
    refine ⟨_, execAnd_eq x y s, changesOnlyRegs_setReg s x _, fun k => ?_⟩
    rw [reg_setReg_same, BitVec.getLsbD_and]
  case xor =>
    refine ⟨_, execXor_eq x y s, changesOnlyRegs_setReg s x _, fun k => ?_⟩
    rw [reg_setReg_same, BitVec.getLsbD_xor]

/-- A masked byte has no bit that its mask lacks. -/
theorem and_mask_and_not_mask (b mask : Byte) : b &&& mask &&& ~~~mask = 0 := by
  rw [BitVec.and_assoc, BitVec.and_not_self]
  exact BitVec.and_zero

/-- Settles O29: one draw, then one write of V[x] with the masked byte. -/
theorem rndStoresAMaskedFreeByte : Obligations.RndStoresAMaskedFreeByte := by
  unfold Obligations.RndStoresAMaskedFreeByte
  intro x kk s
  have hreg := reg_setReg_same s.afterRandomByte x (s.randomByte &&& kk)
  obtain ⟨-, hregs, hmem⟩ := changesOnlyRegs_setReg s.afterRandomByte x (s.randomByte &&& kk)
  refine ⟨toNat_packXkk 0xC x kk, _, rfl, hreg, ?_, rfl, hregs, hmem⟩
  rw [hreg, and_mask_and_not_mask]

/-! ## A flag, then a result (R170, R172, R179 to R183) -/

/-- An answer that writes the flag before the result: the destination ends with the result, VF with the flag if it is
another register, and nothing else changes. -/
theorem flagThenResult_outcome {s : State} {x : RegIdx} {flag result : Byte} {f r : Nat} {answer : Result}
    (h : answer = .next (s.setFlagAndResult .flagThenResult x flag result))
    (hr : result.toNat = r) (hf : flag.toNat = f) :
    ∃ t, answer = .next t ∧ (t.reg x).toNat = r ∧ (x ≠ vf → (t.reg vf).toNat = f) ∧ ChangesOnlyRegs [x, vf] s t := by
  refine ⟨_, h, ?_, fun hx => ?_, changesOnlyRegs_setFlagAndResult _ _ _ _ _⟩
  · rw [reg_setFlagAndResult_flagThenResult, if_pos rfl, hr]
  · rw [reg_vf_setFlagAndResult _ _ _ _ hx, hf]

/-- Settles O26: the sum and its carry. -/
theorem addSetsTheCarry : Obligations.AddSetsTheCarry := by
  unfold Obligations.AddSetsTheCarry
  intro x y s
  exact ⟨encodedAs_family8 0x4 rfl,
    flagThenResult_outcome (execAddvxy_eq x y s) (BitVec.toNat_add _ _) (toNat_carryFlag _ _)⟩

/-- Settles O27: the difference and its not-borrow, with the operands one way round and the other. -/
theorem subtractionsSetNotBorrow : Obligations.SubtractionsSetNotBorrow := by
  unfold Obligations.SubtractionsSetNotBorrow
  intro x y s
  refine ⟨encodedAs_family8 0x5 rfl, encodedAs_family8 0x7 rfl, ?subvxy, ?subn⟩
  case subvxy =>
    exact flagThenResult_outcome (execSubvxy_eq x y s) (toNat_byte_sub _ _) (toNat_notBorrowFlag _ _)
  case subn =>
    exact flagThenResult_outcome (execSubn_eq x y s) (toNat_byte_sub _ _) (toNat_notBorrowFlag _ _)

theorem execWith_shr_vy (x y : RegIdx) (s : State) : execWith { Config.params with shiftSource := .vy } (.shr x y) s
    = .next (s.setFlagAndResult .flagThenResult x (shrFlag (s.reg y)) (s.reg y >>> 1)) := rfl

theorem execWith_shl_vy (x y : RegIdx) (s : State) : execWith { Config.params with shiftSource := .vy } (.shl x y) s
    = .next (s.setFlagAndResult .flagThenResult x (shlFlag (s.reg y)) (s.reg y <<< 1)) := rfl

/-- Settles O28: half or double the operand and the bit shifted out; under SHIFT_SOURCE = VY the operand is V[y]. -/
theorem shiftsSetTheBitShiftedOut : Obligations.ShiftsSetTheBitShiftedOut := by
  unfold Obligations.ShiftsSetTheBitShiftedOut
  intro x y s
  refine ⟨encodedAs_family8 0x6 rfl, encodedAs_family8 0xE rfl, ?shr, ?shl, ?shrVy, ?shlVy⟩
  case shr => exact flagThenResult_outcome (execShr_eq x y s) (toNat_byte_shr _) (toNat_shrFlag _)
  case shl => exact flagThenResult_outcome (execShl_eq x y s) (toNat_byte_shl _) (toNat_shlFlag _)
  case shrVy =>
    obtain ⟨t, ht, hr, hf, -⟩ := flagThenResult_outcome (execWith_shr_vy x y s) (toNat_byte_shr _) (toNat_shrFlag _)
    exact ⟨t, ht, hr, hf⟩
  case shlVy =>
    obtain ⟨t, ht, hr, hf, -⟩ := flagThenResult_outcome (execWith_shl_vy x y s) (toNat_byte_shl _) (toNat_shlFlag _)
    exact ⟨t, ht, hr, hf⟩

end Sys2Proof.Machine
end

section
/-! PROOF. Index register and memory transfers (43_index_memory.md): the writes of I (O32), the decimal digits (O33), the
bulk transfers (O34, O35) and their round trip (O36). -/

namespace Sys2Proof.Machine

/-! ## The words of family F -/

/-- Family F packs x between its family and its fixed low byte (30_encoding.md R102). -/
theorem encodedAs_familyF {ins : Instr} {x : RegIdx} (kk : Byte) (h : encode ins = packXkk 0xF x kk) :
    EncodedAs ins (0xF000 + kk.toNat + x.val * 256) := by
  have ht : (0xF : BitVec 4).toNat = 15 := rfl
  rw [EncodedAs, h, toNat_packXkk, ht]
  omega

/-! ## Writes of I (R201 to R203) -/

/-- The address of a font digit does not wrap, for any byte (43_index_memory.md R203). -/
theorem toNat_five_mul_zextByte (b : Byte) : (5 * zextByte b).toNat = 5 * b.toNat := by
  have hfive : (5 : Word).toNat = 5 := rfl
  have := b.isLt
  rw [BitVec.toNat_mul, toNat_zextByte, hfive]
  omega

/-- Settles O32: each of the three is one write of I, whose value fits 16 bits unless ADDIVX overflows. -/
theorem indexInstructionsWriteI : Obligations.IndexInstructionsWriteI := by
  unfold Obligations.IndexInstructionsWriteI
  intro nnn x s
  refine ⟨⟨toNat_packNnn 0xA nnn, encodedAs_familyF 0x1E rfl, encodedAs_familyF 0x29 rfl⟩,
    ?ldi, ?ldfvx, fun h => ?addivx, fun h => ?overflow⟩
  case ldi => exact ⟨_, rfl, toNat_zextNnn nnn, rfl, fun _ => rfl⟩
  case ldfvx => exact ⟨_, rfl, toNat_five_mul_zextByte (s.reg x), rfl, fun _ => rfl⟩
  case addivx =>
    refine ⟨_, execAddivx_ok (Nat.not_lt.2 h), ?_, rfl, fun _ => rfl⟩
    exact (BitVec.toNat_ofNat _ 16).trans (Nat.mod_eq_of_lt (Nat.lt_succ_of_le h))
  case overflow => exact execAddivx_overflow h

/-! ## The decimal digits (R204) -/

/-- The bytes LDBVX stores. -/
theorem readByte_storeDigits_inside {s : State} (x : RegIdx) (hw : Memory.wf s.mem = true)
    (h : s.i.toNat + 2 ≤ 0xFFF) :
    (s.storeDigits x).readByte s.i.toNat = hundreds (s.reg x) ∧
    (s.storeDigits x).readByte (s.i.toNat + 1) = tens (s.reg x) ∧
    (s.storeDigits x).readByte (s.i.toNat + 2) = ones (s.reg x) := by
  have hin : ∀ k ≤ 2, s.dataAddr k < memSize := fun k hk => by
    rw [State.dataAddr, memSize]
    omega
  have hne : ∀ j k, j ≠ k → s.dataAddr j ≠ s.dataAddr k := fun j k hjk => by
    rw [State.dataAddr, State.dataAddr]
    omega
  have hw0 := wf_writeByte s (s.dataAddr 0) (hundreds (s.reg x)) hw
  have hw1 := wf_writeByte _ (s.dataAddr 1) (tens (s.reg x)) hw0
  refine ⟨?hundreds, ?tens, ?ones⟩
  case hundreds =>
    exact (readByte_writeByte_ne _ _ (hne 0 2 (by decide))).trans <|
      (readByte_writeByte_ne _ _ (hne 0 1 (by decide))).trans (readByte_writeByte_same s _ hw (hin 0 (by decide)))
  case tens =>
    exact (readByte_writeByte_ne _ _ (hne 1 2 (by decide))).trans
      (readByte_writeByte_same _ _ hw0 (hin 1 (by decide)))
  case ones => exact readByte_writeByte_same _ _ hw1 (hin 2 (by decide))

/-- The three bytes from I are in range exactly when the last is. -/
theorem accessOk_three_iff (s : State) : s.accessOk 3 = true ↔ s.i.toNat + 2 ≤ 0xFFF := by
  rw [accessOk_iff]
  omega

/-- Settles O33: in range the three bytes read back as the digits, out of range the check fails before any write. -/
theorem bcdStoresTheDecimalDigits : Obligations.BcdStoresTheDecimalDigits := by
  unfold Obligations.BcdStoresTheDecimalDigits
  refine fun x s => ⟨encodedAs_familyF 0x33 rfl, fun hw h => ?stored, fun h => ?fault⟩
  case stored =>
    obtain ⟨hhundreds, htens, hones⟩ := readByte_storeDigits_inside x hw h
    refine ⟨_, execLdbvx_ok x ((accessOk_three_iff s).2 h), ?_, ?_, ?_,
      fun a => readByte_storeDigits_outside s x, rfl⟩
    · rw [hhundreds, toNat_hundreds]
    · rw [htens, toNat_tens]
    · rw [hones, toNat_ones]
  case fault =>
    exact execLdbvx_fault x (Bool.eq_false_iff.2 (mt (accessOk_three_iff s).1 (Nat.not_le.2 h)))

/-! ## The bulk transfers (R205, R206) -/

theorem accessOk_bulk_eq_false {s : State} {x : RegIdx} (h : s.i.toNat + x.val > 0xFFF) :
    s.accessOk (x.val + 1) = false :=
  Bool.eq_false_iff.2 (mt (accessOk_bulk_iff s x).1 (Nat.not_le.2 h))

/-- Settles O34: in range the bytes are those of a bulk store of x + 1 registers, out of range the check fails before
any write. -/
theorem bulkStoreWritesTheRegisters : Obligations.BulkStoreWritesTheRegisters := by
  unfold Obligations.BulkStoreWritesTheRegisters
  refine fun x s => ⟨encodedAs_familyF 0x55 rfl, fun hw h => ?stored,
    fun h => execLdivx_fault (accessOk_bulk_eq_false h)⟩
  have hexec : exec (.ldivx x) s = .next (s.storeRegs (x.val + 1)) := execLdivx_ok ((accessOk_bulk_iff s x).2 h)
  exact ⟨_, hexec, readByte_of_ldivx hw h hexec, readByte_storeRegs_outside s (x.val + 1), storeRegs_eq s _⟩

/-- Settles O35: in range the registers are those of a bulk load of x + 1 bytes, out of range the check fails before
any write. -/
theorem bulkLoadReadsTheRegisters : Obligations.BulkLoadReadsTheRegisters := by
  unfold Obligations.BulkLoadReadsTheRegisters
  refine fun x s => ⟨encodedAs_familyF 0x65 rfl, fun h => ?loaded,
    fun h => execLdvxi_fault (accessOk_bulk_eq_false h)⟩
  have hreg := reg_loadRegs s (x.val + 1) (by omega)
  refine ⟨_, execLdvxi_ok ((accessOk_bulk_iff s x).2 h), fun k hk => ?_, fun k hk => ?_,
    readByte_loadRegs s _, loadRegs_eq s _⟩
  · rw [hreg, if_pos (Nat.lt_succ_of_le hk)]
  · rw [hreg, if_neg (Nat.not_lt.2 hk)]

/-- Settles O36: the load reads the bytes the store wrote, because memory and I are the same. -/
theorem bulkLoadAfterBulkStoreRestores : Obligations.BulkLoadAfterBulkStoreRestores := by
  unfold Obligations.BulkLoadAfterBulkStoreRestores
  intro x s t u hw h hstore hmem hi
  obtain ⟨-, hload, -⟩ := bulkLoadReadsTheRegisters x u
  obtain ⟨w, hexec, hloaded, -⟩ := hload (hi ▸ h)
  refine ⟨w, hexec, fun k hk => ?_⟩
  calc w.reg k = u.readByte (s.i.toNat + k.val) := by rw [hloaded k hk, hi]
    _ = t.readByte (s.i.toNat + k.val) := congrArg (Memory.read _) hmem
    _ = s.reg k := readByte_of_ldivx hw h hstore k hk

end Sys2Proof.Machine
end

section
/-! PROOF. The display (44_display.md): CLS (O39), DRW (O40), a sprite drawn twice (O41), and who notifies (O42). -/

namespace Sys2Proof.Machine

/-! ## CLS (R221) -/

/-- Settles O39: CLS is the clear display and one notification, in any state. -/
theorem clsClearsTheDisplay : Obligations.ClsClearsTheDisplay := by
  unfold Obligations.ClsClearsTheDisplay
  exact fun s => ⟨rfl, _, rfl, get_clear, rfl, rfl, fun _ => rfl⟩

/-! ## The collision flag (R222) -/

theorem collisionFlag_eq_zero_or_one (c : Bool) : collisionFlag c = 0 ∨ collisionFlag c = 1 := by
  cases c
  · exact .inl rfl
  · exact .inr rfl

theorem collisionFlag_eq_one_iff (c : Bool) : collisionFlag c = 1 ↔ c = true := by
  cases c <;> decide

section Drawn
variable {s : State} {x y : RegIdx} {n : Nat}

theorem reg_vf_drawSprite : (s.drawSprite x y n).reg vf = collisionFlag (s.blit x y n).collision := by
  rw [reg_drawSprite, if_pos rfl]

/-- DRW leaves 0 or 1 in VF. -/
theorem reg_vf_drawSprite_eq_zero_or_one :
    (s.drawSprite x y n).reg vf = 0 ∨ (s.drawSprite x y n).reg vf = 1 := by
  rw [reg_vf_drawSprite]
  exact collisionFlag_eq_zero_or_one _

/-- VF is 1 exactly when the sprite lights a pixel that was on. -/
theorem reg_vf_drawSprite_eq_one_iff (hn : n < 16) : (s.drawSprite x y n).reg vf = 1 ↔
    ∃ px py, SpriteSets s (s.reg x) (s.reg y) n px py ∧ s.pix.get px py = true := by
  rw [reg_vf_drawSprite, collisionFlag_eq_one_iff, blit_collision s x y n (by omega)]

/-- A pixel the sprite lights and that was on is one that DRW turns off. -/
theorem spriteSets_and_on_iff_turned_off (hn : n < 16) (px : Fin 64) (py : Fin 32) :
    SpriteSets s (s.reg x) (s.reg y) n px py ∧ s.pix.get px py = true ↔
      s.pix.get px py = true ∧ (s.drawSprite x y n).pix.get px py = false := by
  rw [← drawSprite_changes s x y n (by omega), and_comm]
  refine and_congr_right fun hon => ?_
  rw [hon, ne_eq, Bool.not_eq_true]

/-! ## DRW (R222) -/

/-- The word of DRW, for a number of rows that fits its field (30_encoding.md R102). -/
theorem encodedAs_drw (hn : n < 16) : EncodedAs (.drw x y n) (0xD000 + x.val * 256 + y.val * 16 + n) := by
  have hrows : (BitVec.ofNat 4 n).toNat = n := (BitVec.toNat_ofNat n 4).trans (Nat.mod_eq_of_lt hn)
  rw [EncodedAs, encode, toNat_packXyn, hrows]
  rfl

theorem exec_drw_drawn (h : n = 0 ∨ s.i.toNat + n - 1 ≤ 0xFFF) :
    exec (.drw x y n) s = .next (s.drawSprite x y n) := execDrw_ok x y ((accessOk_iff s n).2 h)

end Drawn

/-- Settles O40: in range the display and VF are those of the blit, out of range the check fails before any write. -/
theorem drwXorsTheSprite : Obligations.DrwXorsTheSprite := by
  unfold Obligations.DrwXorsTheSprite
  refine fun x y n s hn => ⟨encodedAs_drw hn, fun h => ?drawn, fun hpos h => ?fault⟩
  case drawn =>
    refine ⟨_, exec_drw_drawn h, drawSprite_changes s x y n (by omega), reg_vf_drawSprite_eq_zero_or_one, ?_, rfl, rfl,
      (Effect.drw x y n).sameRegsBut, readByte_drawSprite s x y n⟩
    simp only [reg_vf_drawSprite_eq_one_iff hn, spriteSets_and_on_iff_turned_off hn]
  case fault =>
    have hno : ¬ (n = 0 ∨ s.i.toNat + n - 1 ≤ 0xFFF) := by omega
    exact execDrw_fault x y (Bool.eq_false_iff.2 (mt (accessOk_iff s n).1 hno))

/-! ## Drawing twice -/

/-- DRW changes neither I nor memory, so its sprite is the same afterwards. -/
theorem spriteSets_drawSprite {s : State} {x y : RegIdx} {n : Nat} {x0 y0 : Byte} {rows : Nat} {px : Fin 64}
    {py : Fin 32} : SpriteSets (s.drawSprite x y n) x0 y0 rows px py ↔ SpriteSets s x0 y0 rows px py := by
  simp only [SpriteSets, drawSprite_i, readByte_drawSprite]

section Twice
variable {s : State} {x y : RegIdx} {n : Nat}

/-- The sprite of a second DRW is that of the first, when VF holds neither coordinate. -/
theorem spriteSets_second (hx : x ≠ vf) (hy : y ≠ vf) (px : Fin 64) (py : Fin 32) :
    SpriteSets (s.drawSprite x y n) ((s.drawSprite x y n).reg x) ((s.drawSprite x y n).reg y) n px py ↔
      SpriteSets s (s.reg x) (s.reg y) n px py := by
  rw [spriteSets_drawSprite, reg_drawSprite, if_neg hx, reg_drawSprite, if_neg hy]

/-- The second DRW flips back every pixel the first flipped. -/
theorem pix_drawSprite_twice (hn : n < 16) (hx : x ≠ vf) (hy : y ≠ vf) :
    ((s.drawSprite x y n).drawSprite x y n).pix = s.pix := by
  refine display_ext fun px py => ?_
  have hfirst := drawSprite_changes s x y n (by omega) px py
  have hsecond := drawSprite_changes (s.drawSprite x y n) x y n (by omega) px py
  rw [spriteSets_second hx hy, ← hfirst] at hsecond
  by_cases h : (s.drawSprite x y n).pix.get px py = s.pix.get px py
  · rw [not_not.1 (mt hsecond.1 (not_not.2 h)), h]
  · rw [Bool.eq_not.2 (hsecond.2 h), Bool.eq_not.2 h, Bool.not_not]

/-- On a clear display a DRW turns on exactly the pixels its sprite lights. -/
theorem pix_drawSprite_of_clear (hn : n < 16) (hclear : ∀ px py, s.pix.get px py = false) (px : Fin 64)
    (py : Fin 32) : (s.drawSprite x y n).pix.get px py = true ↔ SpriteSets s (s.reg x) (s.reg y) n px py := by
  rw [← drawSprite_changes s x y n (by omega), hclear, ne_eq, Bool.not_eq_false]

/-- On a clear display a DRW collides with nothing. -/
theorem reg_vf_drawSprite_of_clear (hn : n < 16) (hclear : ∀ px py, s.pix.get px py = false) :
    (s.drawSprite x y n).reg vf = 0 := by
  refine reg_vf_drawSprite_eq_zero_or_one.resolve_right fun hone => ?_
  obtain ⟨px, py, -, hon⟩ := (reg_vf_drawSprite_eq_one_iff hn).1 hone
  rw [hclear] at hon
  cases hon

end Twice

/-- Settles O41: both draws have the same sprite, and after the first the pixels that are on are the ones it lights. -/
theorem drawingTwiceErasesTheSprite : Obligations.DrawingTwiceErasesTheSprite := by
  unfold Obligations.DrawingTwiceErasesTheSprite
  intro x y n s hn hx hy h
  refine ⟨_, _, exec_drw_drawn h, exec_drw_drawn h, pix_drawSprite_twice hn hx hy, fun hclear => ⟨?first, ?second⟩⟩
  case first => exact reg_vf_drawSprite_of_clear hn hclear
  case second =>
    simp only [reg_vf_drawSprite_eq_one_iff hn, spriteSets_second hx hy, pix_drawSprite_of_clear hn hclear, and_self]

/-! ## Who notifies (R223) -/

/-- One notification, which reaches the handler if one is installed. -/
theorem notifyDisplay_counts (s : State) : s.notifyDisplay.notifications = s.notifications + 1 ∧
    s.notifyDisplay.handlerCalls = s.handlerCalls + (if s.displayHandler then 1 else 0) := by
  refine ⟨rfl, ?_⟩
  rw [notifyDisplay_handlerCalls]
  split <;> rfl

/-- CLS and a DRW that does not fault end in NotifyDisplay(), after the pixels and VF are written. -/
theorem exec_display_counts {ins : Instr} {s t : State} (h : exec ins s = .next t)
    (hins : ins = .cls ∨ (∃ x y n, ins = .drw x y n) ∧ ownFault ins s = none) :
    t.notifications = s.notifications + 1 ∧ t.handlerCalls = s.handlerCalls + (if s.displayHandler then 1 else 0) := by
  obtain rfl | ⟨⟨x, y, n, rfl⟩, hf⟩ := hins
  · cases h
    exact notifyDisplay_counts { s with pix := Display.clear }
  · have hrange : n = 0 ∨ s.i.toNat + n - 1 ≤ 0xFFF := by
      simp only [ownFault, ite_eq_right_iff, reduceCtorEq, imp_false] at hf
      omega
    rw [exec_drw_drawn hrange] at h
    cases h
    exact notifyDisplay_counts ({ s with pix := (s.blit x y n).pix }.setReg vf _)

/-- No effect but those of CLS and DRW notifies. -/
theorem Effect.counts_eq {ins : Instr} {s t : State} (he : Effect s ins t)
    (hins : ¬ (ins = .cls ∨ ∃ x y n, ins = .drw x y n)) :
    t.notifications = s.notifications ∧ t.handlerCalls = s.handlerCalls := by
  cases he with
  | regs h =>
    rw [h.1]
    exact ⟨rfl, rfl⟩
  | cls => exact absurd (.inl rfl) hins
  | drw x y n => exact absurd (.inr ⟨x, y, n, rfl⟩) hins
  | _ => simp

/-- Settles O42: CLS and DRW end in one NotifyDisplay(), and neither a fault nor any other effect makes one. -/
theorem onlyDisplayInstructionsNotifyAndOnce : Obligations.OnlyDisplayInstructionsNotifyAndOnce := by
  unfold Obligations.OnlyDisplayInstructionsNotifyAndOnce
  refine fun ins s t h => ⟨exec_display_counts h, fun hins => ?_⟩
  obtain ⟨f, -, rfl⟩ | ⟨hf, he⟩ := exec_cases h
  · exact ⟨rfl, rfl⟩
  · exact he.counts_eq fun hd => hins (hd.imp_right (⟨·, hf⟩))

end Sys2Proof.Machine
end

section
/-! PROOF. Keypad and timers (45_timers_keys.md): the key skips (O23), the timer moves (O43) and LDVXK (O44). -/

namespace Sys2Proof.Machine

variable {s t : State}

/-! ## Key skips (R241 to R243) -/

/-- Settles O23: both are `skipOnKey`, which skips on the key's state within the index bound and faults beyond it. -/
theorem keySkipsReadTheKeypad : Obligations.KeySkipsReadTheKeypad := by
  unfold Obligations.KeySkipsReadTheKeypad
  refine fun x s => ⟨(toNat_packXkk 0xE x 0x9E).trans (Nat.add_right_comm _ _ _),
    (toNat_packXkk 0xE x 0xA1).trans (Nat.add_right_comm _ _ _), fun h => ⟨?skp, ?sknp⟩, fun h => ?fault⟩
  case skp => exact (skipOnKey_ok true h).trans (by rw [beq_true, skipIf_eq])
  case sknp =>
    refine (skipOnKey_ok false h).trans ?_
    simp only [beq_false, skipIf_eq, Bool.not_eq_true', ← Bool.not_eq_true, ite_not]
  case fault => exact ⟨skipOnKey_fault true (Nat.not_lt.2 h), skipOnKey_fault false (Nat.not_lt.2 h)⟩

/-! ## Timers (R244, R246, R247) -/

/-- A step on an instruction that completes is its Execute after the fetch, then the timer advance. -/
theorem step_of_exec {ins : Instr} (hf : s.fault = none) (hm : s.mode = .ready) (hpc : s.pc.toNat ≤ 0xFFE)
    (hd : decode s.fetchWord = .ok ins) (he : exec ins s.beginCycle.fetched = .next t) :
    step s = .next t.endCycle :=
  (step_run hf hm hpc hd).trans (congrArg endOf he)

/-- Settles O43: the moves are single writes, and in a step the advance of `endCycle` acts on the timer written. -/
theorem timerMoves : Obligations.TimerMoves := by
  unfold Obligations.TimerMoves
  refine fun x s => ⟨⟨encodedAs_familyF 0x07 rfl, encodedAs_familyF 0x15 rfl, encodedAs_familyF 0x18 rfl⟩,
    ?ldvxdt, ?lddtvx, ?ldstvx, fun hf hm hpc => ⟨fun hd => ?dtStep, fun hd => ?stStep, fun hd => ?readStep⟩⟩
  case ldvxdt => exact ⟨_, rfl, reg_setReg_same s x s.dt, changesOnlyRegs_setReg s x s.dt⟩
  case lddtvx => exact ⟨_, rfl, rfl, rfl, fun _ => rfl⟩
  case ldstvx => exact ⟨_, rfl, rfl, rfl, fun _ => rfl⟩
  case dtStep =>
    obtain ⟨hdt, -⟩ := endCycle_advances (t := { s.beginCycle.fetched with dt := s.reg x }) hm rfl
    exact ⟨_, step_of_exec hf hm hpc hd rfl, hdt⟩
  case stStep =>
    obtain ⟨-, hst, -⟩ := endCycle_advances (t := { s.beginCycle.fetched with st := s.reg x }) hm rfl
    exact ⟨_, step_of_exec hf hm hpc hd rfl, hst⟩
  case readStep =>
    refine ⟨_, step_of_exec hf hm hpc hd rfl, ?_⟩
    rw [reg_endCycle]
    exact reg_setReg_same _ x s.dt

/-! ## The wait for a key (R245) -/

theorem awaitKey_answered (x : RegIdx) {b : Byte} {rest : List Byte} (h : s.keyHandler = some (b :: rest)) :
    s.awaitKey x = { s.setReg x b with mode := .ready, keyHandler := some rest } := by
  simp only [State.awaitKey, h]

theorem awaitKey_unanswered (x : RegIdx) (h : s.keyHandler = none ∨ s.keyHandler = some []) :
    s.awaitKey x = { s with mode := .awaitingKey x } := by
  obtain h | h := h <;> simp only [State.awaitKey, h]

/-- Settles O44: LDVXK is `awaitKey`, with an answer one write of V[x] and of the mode, without one the mode alone. -/
theorem keyWaitStoresTheAnswer : Obligations.KeyWaitStoresTheAnswer := by
  unfold Obligations.KeyWaitStoresTheAnswer
  refine fun x s => ⟨encodedAs_familyF 0x0A rfl, fun b rest hk => ?answered, fun hk => ?unanswered⟩
  case answered =>
    obtain ⟨-, hregs, hmem⟩ := changesOnlyRegs_setReg s x b
    exact ⟨_, congrArg Host.Outcome.next (awaitKey_answered x hk), reg_setReg_same s x b, rfl, rfl, hregs, hmem⟩
  case unanswered => exact congrArg Host.Outcome.next (awaitKey_unanswered x hk)

end Sys2Proof.Machine
end

section
/-! PROOF. Faults and the host port (60_exceptions.md): the fault each instruction raises (O14), precise faults (O12), the
order of the checks (O13, O10), the terminal fault (O11), the keypad (O53), inspection (O59), the end of a run (O56). -/

namespace Sys2Proof.Machine

variable {s t : State} {ins : Instr} {f : Fault}

/-! ## Execute's own fault (R261, R264, R265, R268, R269) -/

theorem terminal_iff_code (f : Fault) : f.terminal = true ↔ f.code ≠ 1 := by
  cases f <;> simp [Fault.terminal, Fault.code]

/-- The codes 1 and 2 are the decoder's and the fetch's: Execute raises the others. -/
theorem code_ownFault (h : ownFault ins s = some f) : 3 ≤ f.code := by
  cases ins with
  | ret | call | drw | skp | sknp | addivx | ldbvx | ldivx | ldvxi =>
    obtain ⟨-, e⟩ := Option.ite_none_right_eq_some.1 h
    cases e
    simp only [Fault.code, Nat.reduceLeDiff]
  | _ => cases h

theorem terminal_ownFault (h : ownFault ins s = some f) : f.terminal = true := by
  have hcode := code_ownFault h
  exact (terminal_iff_code f).2 (by omega)

theorem ownFault_ne_fetchOutOfRange (h : ownFault ins s = some f) (pc : Word) : f ≠ .fetchOutOfRange pc := by
  rintro rfl
  have hcode := code_ownFault h
  simp [Fault.code] at hcode

/-- Settles O14: the fault's entry is that of a terminal fault, and no effect raises one. -/
theorem eachInstructionRaisesExactlyItsOwnFault : Obligations.EachInstructionRaisesExactlyItsOwnFault := by
  unfold Obligations.EachInstructionRaisesExactlyItsOwnFault
  intro ins s
  obtain ⟨g, hg, he⟩ | ⟨hnone, t, heff, he⟩ := executed_exec ins s
  · refine ⟨fun f hf => ?_, fun hnone => absurd (hg.symm.trans hnone) nofun⟩
    obtain rfl : g = f := Option.some.inj (hg.symm.trans hf)
    rw [he, raise_eq, enterFault_terminal s g (terminal_ownFault hg)]
  · obtain ⟨hfault, hreturned⟩ := heff.fault_returned
    exact ⟨fun f hf => absurd (hnone.symm.trans hf) nofun, fun _ => ⟨t, he, hreturned, hfault⟩⟩

/-- An Execute that begins with nothing returned returns the instruction's own fault. -/
theorem exec_returned (h : exec ins s = .next t) (hr : s.returned = none) : t.returned = ownFault ins s := by
  obtain ⟨f, hf, rfl⟩ | ⟨hnone, heff⟩ := exec_cases h
  · rw [enterFault_returned, hf]
  · rw [heff.fault_returned.2, hr, hnone]

/-! ## Fault entry in a step (R263, R266, R270, R271) -/

/-- The entry of a fault from a state without one: only DecodeError, code 1, leaves `Fault` unset. -/
theorem enterFault_eq (hf : s.fault = none) (f : Fault) :
    s.enterFault f = { s with returned := some f, fault := if f.code = 1 then none else some f } := by
  cases f <;> simp [State.enterFault, Fault.terminal, Fault.code, hf]

theorem enterFault_fetched (hf : s.fault = none) (f : Fault) : s.beginCycle.fetched.enterFault f
    = { s with pc := s.pc + 2, returned := some f, fault := if f.code = 1 then none else some f } :=
  enterFault_eq (s := s.beginCycle.fetched) hf f

theorem step_fetchOutOfRange (hf : s.fault = none) (hm : s.mode = .ready) (hpc : s.pc.toNat > 0xFFE) :
    step s = .next { s with returned := some (.fetchOutOfRange s.pc), fault := some (.fetchOutOfRange s.pc) } := by
  have hfetch : s.fetchOk = false := by simpa [State.fetchOk] using hpc
  rw [step, cycle_outOfRange hf hm hfetch, enterFault_terminal _ _ rfl]
  rfl

/-- Settles O10. -/
theorem fetchAboveMemoryRaisesFetchOutOfRange : Obligations.FetchAboveMemoryRaisesFetchOutOfRange := by
  unfold Obligations.FetchAboveMemoryRaisesFetchOutOfRange
  exact fun s => step_fetchOutOfRange

/-- Settles O12: a step that returns an error is the entry of a fault, right from the state before it for the fetch's own
fault, from the state after the fetch for every other. -/
theorem faultsArePrecise : Obligations.FaultsArePrecise := by
  unfold Obligations.FaultsArePrecise
  intro s t f h hr
  obtain ⟨hf, ⟨x, -, rfl⟩ | ⟨-, -, rfl⟩ | ⟨-, -, -, rfl⟩ | ⟨-, -, ins, -, he⟩⟩ := step_cases h
  · simp at hr
  · cases hr
    exact .inl ⟨rfl, enterFault_eq hf _⟩
  · cases hr
    exact .inr ⟨nofun, enterFault_fetched hf _⟩
  · obtain ⟨u, hu, rfl⟩ := endOf_eq_next he
    rw [endCycle_returned] at hr
    rw [endCycle_raised hr]
    obtain ⟨g, hown, rfl⟩ | ⟨-, heff⟩ := exec_cases hu
    · cases hr
      exact .inr ⟨ownFault_ne_fetchOutOfRange hown, enterFault_fetched hf _⟩
    · cases heff.fault_returned.2.symm.trans hr

/-- Settles O11: a fault's entry sets every fault but DecodeError, and with `Fault` set no cycle runs. -/
theorem terminalFaultIsReturnedByEveryLaterStep : Obligations.TerminalFaultIsReturnedByEveryLaterStep := by
  unfold Obligations.TerminalFaultIsReturnedByEveryLaterStep
  refine ⟨fun s t f h hr hterm => ?_, fun s f hf => ⟨step_faulted hf, fun n => runCycles_fault n (step_faulted hf)⟩⟩
  obtain ⟨-, rfl⟩ | ⟨-, rfl⟩ := faultsArePrecise s t f h hr
  · rfl
  · exact if_neg ((terminal_iff_code f).1 hterm)

/-- Settles O13: each check is made when those before it have passed. -/
theorem checksAreMadeInOrder : Obligations.ChecksAreMadeInOrder := by
  unfold Obligations.ChecksAreMadeInOrder
  refine fun s hm => ⟨fun f => step_faulted, fun hf => ?_⟩
  by_cases hpc : s.pc.toNat > 0xFFE
  · exact ⟨_, step_fetchOutOfRange hf hm hpc, (if_pos hpc).symm⟩
  · simp only [if_neg hpc]
    have hle := Nat.le_of_not_lt hpc
    cases hd : decode s.fetchWord with
    | error e => exact ⟨_, step_illegal hf hm hle (by simp [hd]), rfl⟩
    | ok ins =>
      obtain ⟨t, ht⟩ := exec_next ins s.beginCycle.fetched
      refine ⟨_, (step_run hf hm hle hd).trans (congrArg endOf ht), ?_⟩
      rw [endCycle_returned]
      exact exec_returned ht rfl

/-! ## The keypad (R286) -/

theorem exec_keys (h : exec ins s = .next t) : t.keys = s.keys := by
  obtain ⟨-, -, -, -, -, -, hkeys, -⟩ := specialStateHasOnlyItsWriters ins s t h
  exact hkeys

theorem step_keys (h : step s = .next t) : t.keys = s.keys := by
  obtain ⟨-, ⟨x, -, rfl⟩ | ⟨-, -, rfl⟩ | ⟨-, -, -, rfl⟩ | ⟨-, -, ins, -, he⟩⟩ := step_cases h
  · rw [endCycle_keys, awaitKey_keys, beginCycle_keys]
  · rfl
  · rfl
  · obtain ⟨u, hu, rfl⟩ := endOf_eq_next he
    rw [endCycle_keys, exec_keys hu]
    rfl

theorem setKey_inRange {k : Nat} (down : Bool) (hm : s.mode = .ready) (hk : k < 16) :
    setKey k down s = .ok { s with keys := s.keys.set k down hk } := by
  rw [setKey, betweenSteps_ready hm, dif_pos hk]

theorem setKey_outOfRange {k : Nat} (down : Bool) (hm : s.mode = .ready) (hk : ¬ k < 16) :
    setKey k down s = .error (.keyIndexInvalid k) := by
  rw [setKey, betweenSteps_ready hm, dif_neg hk]

/-- Settles O53: set_key is one write of Key within the index bound; what every other operation leaves has Key in it as
it was. -/
theorem setKeyIsTheOnlyWriterOfTheKeypad : Obligations.SetKeyIsTheOnlyWriterOfTheKeypad := by
  unfold Obligations.SetKeyIsTheOnlyWriterOfTheKeypad
  refine ⟨fun k down s hm => ⟨fun hk => ?inRange, fun hk => ⟨setKey_outOfRange down hm (by omega), rfl⟩⟩,
    fun s t => step_keys, fun bytes s t h => ?loadMemory, fun l s t h => ?keyHandler, fun s t h => ?displayHandler,
    fun b s => rfl⟩
  case inRange =>
    exact ⟨_, setKey_inRange down hm hk, Vector.getElem_set_self hk,
      fun j hj => Vector.getElem_set_ne hk j.isLt hj.symm, rfl⟩
  case loadMemory =>
    obtain ⟨-, rfl⟩ := loadMemory_ok h
    rfl
  case keyHandler =>
    obtain rfl := setKeyWaitHandler_ok h
    rfl
  case displayHandler =>
    obtain rfl := setDisplayUpdateHandler_ok h
    rfl

/-! ## Inspection (R287) -/

/-- Settles O59: the ports are reads; the two with an index check it first. -/
theorem inspectionReadsTheNamedElement : Obligations.InspectionReadsTheNamedElement := by
  unfold Obligations.InspectionReadsTheNamedElement
  refine fun s => ⟨fun k => dif_pos k.isLt, fun k => dif_pos k.isLt, fun k hk => ?_, rfl, rfl, rfl, rfl, rfl⟩
  have hout : ¬ k < 16 := by omega
  exact ⟨dif_neg hout, dif_neg hout⟩

/-! ## The end of a run (R291) -/

theorem endOfRun_iff : s.endOfRun = true ↔
    s.mode = .ready ∧ s.fault = none ∧ s.fetchOk = true ∧ s.fetchWord = (0x1000 ||| s.pc) :=
  decide_eq_true_iff

theorem zextNnn_setWidth {pc : Word} (h : pc.toNat ≤ 0xFFF) : zextNnn (pc.setWidth 12) = pc := by
  apply BitVec.eq_of_toNat_eq
  rw [toNat_zextNnn, BitVec.toNat_setWidth]
  omega

/-- A 12-bit address under the family bits of JP is JP's word. -/
theorem jpWord_eq_packNnn {pc : Word} (h : pc.toNat ≤ 0xFFF) : 0x1000 ||| pc = packNnn 0x1 (pc.setWidth 12) := by
  have hfamily : (0x1000 : Word).toNat = 2 ^ 12 * 1 := rfl
  have hsum := Nat.two_pow_add_eq_or_of_lt (i := 12) (b := pc.toNat) (by omega) 1
  have ht : (0x1 : BitVec 4).toNat = 1 := rfl
  apply BitVec.eq_of_toNat_eq
  rw [toNat_packNnn, BitVec.toNat_or, hfamily, ← hsum, ht, BitVec.toNat_setWidth]
  omega

theorem decode_packNnn_jp (nnn : BitVec 12) : decode (packNnn 0x1 nnn) = .ok (.jp nnn) := by
  rw [decode, fieldT_packNnn, fieldNnn_packNnn]
  rfl

/-- A jump to its own address undoes the fetch's advance, so the cycle comes to its timer advance. -/
theorem step_endOfRun (h : s.endOfRun = true) :
    step s = .next (s.beginCycle.advanceTimers (Config.tick s.tickDraws)) := by
  obtain ⟨hm, hf, hfetch, hword⟩ := endOfRun_iff.1 h
  have hpc := fetchOk_iff.1 hfetch
  have hdecode : decode s.fetchWord = .ok (.jp (s.pc.setWidth 12)) := by
    rw [hword, jpWord_eq_packNnn (by omega), decode_packNnn_jp]
  have hback : { s.beginCycle.fetched with pc := s.pc } = s.beginCycle := rfl
  rw [step_run hf hm hpc hdecode, exec, execJp_eq, zextNnn_setWidth (by omega), hback, endOf_next,
    endCycle_completed (s := s.beginCycle) hm rfl, beginCycle_tickDraws]

/-- Settles O56: nothing that the end of a run speaks of moves in that step. -/
theorem endOfRunStaysTheEndOfRun : Obligations.EndOfRunStaysTheEndOfRun := by
  unfold Obligations.EndOfRunStaysTheEndOfRun
  exact fun s h => ⟨_, step_endOfRun h, h, rfl⟩

end Sys2Proof.Machine
end

section
/-! PROOF. The encoder's round trip (O1), the sample words (O5) and what construction leaves (O48). -/

namespace Sys2Proof.Machine

/-! ## Decoding what was encoded (30_encoding.md R101 to R105) -/

section DecodeOfPacked
variable (x y : RegIdx) (n : BitVec 4) (kk : Byte)

/-- A word packed under the family bits of 8 is decoded by its low nybble. -/
theorem decode_packXyn_family8 : decode (packXyn 0x8 x y n) = decodeFamily8 (packXyn 0x8 x y n) := by
  rw [decode, fieldT_packXyn]
  rfl

/-- A word packed under the family bits of E is decoded by its low byte. -/
theorem decode_packXkk_familyE : decode (packXkk 0xE x kk) = decodeFamilyE (packXkk 0xE x kk) := by
  rw [decode, fieldT_packXkk]
  rfl

/-- A word packed under the family bits of F is decoded by its low byte. -/
theorem decode_packXkk_familyF : decode (packXkk 0xF x kk) = decodeFamilyF (packXkk 0xF x kk) := by
  rw [decode, fieldT_packXkk]
  rfl

/-- The row count of DRW, at most 15, is not cut by the field that holds it. -/
theorem decode_encode_drw {m : Nat} (hm : m < 16) : decode (encode (.drw x y m)) = .ok (.drw x y m) := by
  have hrows : (BitVec.ofNat 4 m).toNat = m := (BitVec.toNat_ofNat m 4).trans (Nat.mod_eq_of_lt hm)
  rw [encode, decode, fieldT_packXyn, fieldX_packXyn, fieldY_packXyn, fieldN_packXyn, hrows]
  rfl

end DecodeOfPacked

/-- The decoder gives back every instruction whose operands fit their fields: the packed word has the family, the
operands and the fixed low bits that the encoder put in it. -/
theorem decode_encode {ins : Instr} (h : ins.wellFormed = true) : decode (encode ins) = .ok ins := by
  cases ins
  case cls | ret => rfl
  case jp nnn | call nnn | ldi nnn | jr nnn =>
    rw [encode, decode, fieldT_packNnn, fieldNnn_packNnn]
    rfl
  case sevxb x kk | snevxb x kk | ldvxb x kk | addvxb x kk | rnd x kk =>
    rw [encode, decode, fieldT_packXkk, fieldX_packXkk, fieldKk_packXkk]
    rfl
  case sevxy x y | snevxy x y =>
    rw [encode, decode, fieldT_packXyn, fieldX_packXyn, fieldY_packXyn, fieldN_packXyn]
    rfl
  case drw x y n => exact decode_encode_drw x y (of_decide_eq_true h)
  case skp x | sknp x =>
    rw [encode, decode_packXkk_familyE, decodeFamilyE, fieldX_packXkk, fieldKk_packXkk]
    rfl
  case ldvxdt x | ldvxk x | lddtvx x | ldstvx x | addivx x | ldfvx x | ldbvx x | ldivx x | ldvxi x =>
    rw [encode, decode_packXkk_familyF, decodeFamilyF, fieldX_packXkk, fieldKk_packXkk]
    rfl
  case ldvxy x y | or x y | and x y | xor x y | addvxy x y | subvxy x y | shr x y | subn x y | shl x y =>
    rw [encode, decode_packXyn_family8, decodeFamily8, fieldX_packXyn, fieldY_packXyn, fieldN_packXyn]
    rfl

/-- Two bytes of a word that decodes are read as its instruction, and the bytes after them are left. -/
theorem decodeBytes_of_decode {op : Word} {ins : Instr} (h : decode op = .ok ins) (rest : List Byte) :
    decodeBytes (highByte op :: lowByte op :: rest) = .ok (ins, rest) := by
  rw [decodeBytes, wordOfBytes_highByte_lowByte, h]

/-- Settles O1: the byte decoder reads the word back from its two bytes, and the word is `decode_encode`. -/
theorem decodeOfEncodeGivesTheInstruction : Obligations.DecodeOfEncodeGivesTheInstruction := by
  unfold Obligations.DecodeOfEncodeGivesTheInstruction
  exact fun ins h => ⟨decode_encode h, decodeBytes_of_decode (decode_encode h)⟩

/-- Settles O5: eight closed words, which the decoder evaluates. -/
theorem sampleWordsDecode : Obligations.SampleWordsDecode := by
  unfold Obligations.SampleWordsDecode
  decide

/-! ## Construction (70_reset_and_hazards.md R311) -/

/-- Above the font the reset contents are zero (20_memory.md R77). -/
theorem background_above_font {a : Nat} (h : 0x050 ≤ a) : Memory.background a = 0 := by
  have hout : Config.font[a]? = none := List.getElem?_eq_none h
  rw [Memory.background, hout, Option.getD_none]

/-- Under the font's addresses the reset contents are its bytes (20_memory.md R76). -/
theorem background_font {a : Nat} (h : a < Config.font.length) : Memory.background a = Config.font[a] := by
  rw [Memory.background, List.getElem?_eq_getElem h, Option.getD_some]

section NewCore
variable (p : Params) {a : Nat}

theorem readByte_newCoreWith_font (h : a < 80) : (newCoreWith p).readByte a = p.font[a] := by
  have hlength : p.font.toList.length = 80 := Vector.length_toList
  have hread := Memory.read_writeAll_inside fontBase p.font.toList wf_reset a (by omega) (by rw [hlength]; decide)
  rw [fontBase, Nat.zero_add, Vector.getElem_toList] at hread
  exact hread

theorem readByte_newCoreWith_above_font (h : 0x050 ≤ a) : (newCoreWith p).readByte a = 0 := by
  have hlength : fontBase + p.font.toList.length ≤ a := by
    rw [Vector.length_toList, fontBase]
    omega
  exact (Memory.read_writeAll_outside fontBase p.font.toList [] a (.inr hlength)).trans (background_above_font h)

end NewCore

/-- Settles O48: the fields are those of `State.reset`, its memory reads as the reset contents, and a core with
another font is the reset state but for one block write at 0x000. -/
theorem resetLeavesTheStatedValues : Obligations.ResetLeavesTheStatedValues := by
  unfold Obligations.ResetLeavesTheStatedValues
  refine ⟨fun k => ?_, rfl, rfl, fun k => ?_, rfl, rfl, rfl, fun k => ?_, fun px py => ?_, rfl, rfl, rfl, rfl,
    fun a => background_above_font, fun a => background_font, rfl,
    fun p => ⟨fun a => readByte_newCoreWith_font p, fun a => readByte_newCoreWith_above_font p, rfl,
      wf_newCoreWith p⟩⟩
  · exact Vector.getElem_replicate k.isLt
  · exact Vector.getElem_replicate k.isLt
  · exact Vector.getElem_replicate k.isLt
  · simp [State.reset, Display.get]

end Sys2Proof.Machine
end
